-- ==== Sys2Proof/Word.lean ====
section
/-! DEFINITION. The widths of SCIF-RAST v1 (00_scope.md R4) and the colour triplet (20_memory.md R42). -/

namespace Sys2Proof

/-- One byte of the command, and one colour channel, 0 to 255 (R4, `MODE_BITS`, `CHAN_BITS`). -/
abbrev Byte := BitVec 8

/-- A 16-bit unsigned value: width, height, scan counters (R4, `WIDTH_BITS`, `HEIGHT_BITS`; R18). -/
abbrev Half := BitVec 16

/-- A colour triplet: three separate 8-bit channel values in the order r, g, b (R42, R125). -/
structure Colour where
  r : Byte
  g : Byte
  b : Byte
  deriving DecidableEq, Repr, Inhabited

/-- (0,0,0), the cleared value of `C1` and `C2` (R27). -/
def Colour.zero : Colour := ⟨0#8, 0#8, 0#8⟩

end Sys2Proof
end

