-- ==== Sys2Proof/Config.lean ====
section
/-! DEFINITION. The free values: what the spec calls unspecified, as constants without a body, so that no
proof can rest on what they are. Everything else that an implementation could choose is fixed by the spec
(00_scope.md R4, R6) or is state (`CFG.ZDIM`, R5). -/

namespace Sys2Proof

/-- What `CMD` holds at an offset the host has not written since the last hardware reset: "unspecified after
hardware reset" (10_state.md R27). Arguments: how many hardware resets there have been, the offset. Log entry 6. -/
opaque Config.powerOnByte (cmdEpoch offset : Nat) : Byte

/-- What a host read of `CMD[offset]` with `offset ≥ LEN` returns: "unspecified value"
(70_reset_and_hazards.md R199). It may depend on the byte stored there, if any. Log entry 8. -/
opaque Config.unspecifiedCmdRead (cmdEpoch len offset : Nat) (stored : Option Byte) : Byte

/-- What a host read of `PIX[index]` returns outside a finished image: "unspecified value"
(70_reset_and_hazards.md R195, R199). It may depend on the triplet stored there, if any. Log entry 7. -/
opaque Config.unspecifiedPixRead (pixEpoch index : Nat) (stored : Option Colour) : Colour

end Sys2Proof
end

