-- ==== Sys2Proof/Syntax.lean ====
section
/-! DEFINITION. The instructions of SCIF wire format v1, one constructor per row of spec/opcode_table.json. -/

namespace Sys2Proof

/-- One SCIF command with a valid mode byte (30_encoding.md R60, R65). The operands are the fields of formats
S and P (R62, R63) in wire order: width, height, then the channels of colour 1 and of colour 2. -/
inductive Instr where
  | solid (w h : Half) (r g b : Byte)
  | vgrad (w h : Half) (r1 g1 b1 r2 g2 b2 : Byte)
  | hgrad (w h : Half) (r1 g1 b1 r2 g2 b2 : Byte)
  | checker (w h : Half) (r1 g1 b1 r2 g2 b2 : Byte)
  deriving DecidableEq, Repr

end Sys2Proof
end

