-- ==== Sys2Proof/WellFormed.lean ====
section
/-! DEFINITION. Well-formedness. A decoded `Instr` is well formed by its types alone: "Every bit pattern of
`width`, `height` and of each channel byte is legal" (30_encoding.md R64). What can be ill formed is the
SOURCE text of an instruction (R71), whose operands are integers: there the ranges are checked, and the
assembler fails with `RangeError` outside them (R71, 45_encoder.md R146, R148). -/

namespace Sys2Proof

/-- A statement of the assembly language of 30_encoding.md R71, operands as the integers written. -/
inductive Source where
  | solid (w h r g b : Int)
  | vgrad (w h r1 g1 b1 r2 g2 b2 : Int)
  | hgrad (w h r1 g1 b1 r2 g2 b2 : Int)
  | checker (w h r1 g1 b1 r2 g2 b2 : Int)
  | bytes (bs : List Int)
  deriving DecidableEq, Repr

/-- A source program (R71): one statement, then the bytes of its `.trail` directive, if any. -/
structure SourceProgram where
  stmt : Source
  trail : List Int
  deriving DecidableEq, Repr

/-- "`w`, `h` must be in 0–65535" (R71). -/
def dimInRange (v : Int) : Bool := decide (0 ≤ v) && decide (v ≤ 65535)

/-- "every channel in 0–255" (R71). -/
def byteInRange (v : Int) : Bool := decide (0 ≤ v) && decide (v ≤ 255)

/-- The range check of one statement. -/
def Source.wf : Source → Bool
  | .solid w h r g b => dimInRange w && dimInRange h && [r, g, b].all byteInRange
  | .vgrad w h r1 g1 b1 r2 g2 b2 => dimInRange w && dimInRange h && [r1, g1, b1, r2, g2, b2].all byteInRange
  | .hgrad w h r1 g1 b1 r2 g2 b2 => dimInRange w && dimInRange h && [r1, g1, b1, r2, g2, b2].all byteInRange
  | .checker w h r1 g1 b1 r2 g2 b2 => dimInRange w && dimInRange h && [r1, g1, b1, r2, g2, b2].all byteInRange
  | .bytes bs => bs.all byteInRange

/-- A source program is well formed when its statement and its trailing bytes are. -/
def SourceProgram.wf (p : SourceProgram) : Bool := p.stmt.wf && p.trail.all byteInRange

end Sys2Proof
end

