-- ==== Sys2Proof/Decode.lean ====
section
/-! DEFINITION. The decoder of SCIF command bytes, total and rejecting by name (30_encoding.md, U3), and after
it the encoder: of an instruction, the document's `encode_header` and `encode_payload`, and the assembler
(45_encoder.md). -/

namespace Sys2Proof

/-! ## Decoding -/

/-- Why bytes are no instruction (R68, R69): the names are those of the traps they lead to. -/
inductive DecodeError where
  /-- fewer than 5 bytes -/
  | truncatedHeader
  /-- a mode byte outside 1, 2, 3, 4 -/
  | unknownMode
  /-- a valid mode with fewer payload bytes than it requires -/
  | payloadTooShort
  deriving DecidableEq, Repr

/-- `HDR_LEN` (R4): the header "is always exactly 5 bytes on the wire". -/
abbrev hdrLen : Nat := 5

/-- The required payload length `REQ` (R66); no value for an invalid mode. -/
def reqLen (mode : Byte) : Option Nat :=
  if mode = 1#8 then some 3
  else if mode = 2#8 ∨ mode = 3#8 ∨ mode = 4#8 then some 6
  else none

/-- The length of an instruction "is decided by its mode byte alone" (R67): 8 or 11. -/
def instrLen (mode : Byte) : Option Nat := (reqLen mode).map (hdrLen + ·)

/-- The longest instruction has 11 bytes (R63); no command byte at offset 11 or above is ever read (R45). -/
abbrev maxInstrLen : Nat := 11

/-- Two bytes, the first the more significant: "big-endian" (R43). -/
def bigEndian (hi lo : Byte) : Half := hi ++ lo

/-- `decode_header` (R82): width, height, mode and the remaining bytes; it does not look at the mode's value. -/
def decodeHeader : List Byte → Except DecodeError (Half × Half × Byte × List Byte)
  | w1 :: w0 :: h1 :: h0 :: m :: rest => .ok (bigEndian w1 w0, bigEndian h1 h0, m, rest)
  | _ => .error .truncatedHeader

/-- The payload of format P (R63): six bytes, then the ignored trailing bytes. -/
def decodePair (mk : Byte → Byte → Byte → Byte → Byte → Byte → Instr) :
    List Byte → Except DecodeError (Instr × List Byte)
  | r1 :: g1 :: b1 :: r2 :: g2 :: b2 :: rest => .ok (mk r1 g1 b1 r2 g2 b2, rest)
  | _ => .error .payloadTooShort

/-- The payload of format S (R62): three bytes, then the ignored trailing bytes. -/
def decodeTriple (mk : Byte → Byte → Byte → Instr) : List Byte → Except DecodeError (Instr × List Byte)
  | r :: g :: b :: rest => .ok (mk r g b, rest)
  | _ => .error .payloadTooShort

/-- The instruction of a parsed header and its remaining bytes: the mode is checked first, then the payload
length (R90, R91, R166); the second result is the trailing bytes, which are ignored (R67). -/
def decodeBody (w h : Half) (m : Byte) (payload : List Byte) : Except DecodeError (Instr × List Byte) :=
  if m = 1#8 then decodeTriple (.solid w h) payload
  else if m = 2#8 then decodePair (.vgrad w h) payload
  else if m = 3#8 then decodePair (.hgrad w h) payload
  else if m = 4#8 then decodePair (.checker w h) payload
  else .error .unknownMode

/-- Command bytes to an instruction and its trailing bytes, or why there is none. -/
def decode (bs : List Byte) : Except DecodeError (Instr × List Byte) :=
  match decodeHeader bs with
  | .ok (w, h, m, rest) => decodeBody w h m rest
  | .error e => .error e

/-! ## Words numbered as spec/opcode_table.json numbers them -/

/-- The `n` bytes of the number `v` read as the table reads an instruction's bytes: "as one big-endian unsigned
integer (`CMD[0]` the most significant byte, bit 0 the least significant bit of the last byte)" (R65). -/
def bigEndianBytes (n v : Nat) : List Byte :=
  (List.range n).map fun k => BitVec.ofNat 8 (v >>> (8 * (n - 1 - k)))

/-- The command bytes of a table word, padded with zero bytes to the longest instruction. The table numbers a
format S row over 8 bytes and a format P row over 11 (R65); a word of at most 64 bits is one of format S when
it matches the SOLID row's mask `0xFF000000` and match `0x01000000`, and every other word is numbered over 11
bytes. Log entry 1. -/
def tableBytes (nbits w : Nat) : List Byte :=
  let v := w % 2 ^ nbits
  if nbits ≤ 64 ∧ (v >>> 24) % 256 = 1 then bigEndianBytes 8 v ++ List.replicate 3 0#8
  else bigEndianBytes 11 v

/-- The instruction the decoder reads from a table word; none where it refuses. -/
def decodeTableWord (nbits w : Nat) : Option Instr :=
  match decode (tableBytes nbits w) with
  | .ok (i, _) => some i
  | .error _ => none

/-! ## The fields of an instruction -/

/-- The opcode byte of each row (R65). -/
def Instr.modeByte : Instr → Byte
  | .solid .. => 1#8
  | .vgrad .. => 2#8
  | .hgrad .. => 3#8
  | .checker .. => 4#8

/-- The width field. -/
def Instr.widthField : Instr → Half
  | .solid w _ _ _ _ => w
  | .vgrad w _ _ _ _ _ _ _ => w
  | .hgrad w _ _ _ _ _ _ _ => w
  | .checker w _ _ _ _ _ _ _ => w

/-- The height field. -/
def Instr.heightField : Instr → Half
  | .solid _ h _ _ _ => h
  | .vgrad _ h _ _ _ _ _ _ => h
  | .hgrad _ h _ _ _ _ _ _ => h
  | .checker _ h _ _ _ _ _ _ => h

/-- The payload bytes in the order read (R147): three for format S, six for format P. -/
def Instr.payloadBytes : Instr → List Byte
  | .solid _ _ r g b => [r, g, b]
  | .vgrad _ _ r1 g1 b1 r2 g2 b2 => [r1, g1, b1, r2, g2, b2]
  | .hgrad _ _ r1 g1 b1 r2 g2 b2 => [r1, g1, b1, r2, g2, b2]
  | .checker _ _ r1 g1 b1 r2 g2 b2 => [r1, g1, b1, r2, g2, b2]

/-! ## Encoding an instruction -/

/-- The five header bytes (R61): width high, width low, height high, height low, mode. -/
def headerBytes (w h : Half) (m : Byte) : List Byte :=
  [w.extractLsb' 8 8, w.extractLsb' 0 8, h.extractLsb' 8 8, h.extractLsb' 0 8, m]

/-- The canonical bytes of an instruction (R149): exactly `5 + REQ(mode)`. -/
def encode (i : Instr) : List Byte := headerBytes i.widthField i.heightField i.modeByte ++ i.payloadBytes

/-! ## The document's encoder functions and the assembler -/

/-- Why an encoder call fails. -/
inductive EncodeError where
  /-- `RangeError` (R146, R148): a width, height, mode or channel outside its range -/
  | range
  /-- `UnknownModeError` (R147): `encode_payload` with a mode that has no fields -/
  | unknownMode
  /-- a parameter count that is not the mode's, which the assembler's grammar excludes (N13); log entry 15 -/
  | operandCount
  deriving DecidableEq, Repr

/-- `encode_header(width, height, mode)` (R145, R146). -/
def encodeHeader (w h m : Int) : Except EncodeError (List Byte) :=
  if dimInRange w && dimInRange h && byteInRange m then
    .ok [BitVec.ofInt 8 (w / 256), BitVec.ofInt 8 (w % 256), BitVec.ofInt 8 (h / 256), BitVec.ofInt 8 (h % 256),
      BitVec.ofInt 8 m]
  else .error .range

/-- The number of parameters `encode_payload` packs for a mode: `REQ(mode)` for 1 to 4, else none (R147). -/
def paramCount (m : Int) : Option Nat :=
  if m = 1 then some 3 else if m = 2 ∨ m = 3 ∨ m = 4 then some 6 else none

/-- Bytes given as integers, failing with `RangeError` if one is outside 0 to 255 (R148). -/
def packBytes (vs : List Int) : Except EncodeError (List Byte) :=
  if vs.all byteInRange then .ok (vs.map (BitVec.ofInt 8)) else .error .range

/-- `encode_payload(mode, params)` (R147, R148). Log entry 15 for the order of its failures. -/
def encodePayload (m : Int) (params : List Int) : Except EncodeError (List Byte) :=
  match paramCount m with
  | none => .error .unknownMode
  | some n => if params.length = n then packBytes params else .error .operandCount

/-- The canonical file `encode_header(w, h, m) ++ encode_payload(m, params)` (R149). -/
def encodeFile (w h m : Int) (params : List Int) : Except EncodeError (List Byte) :=
  match encodeHeader w h m, encodePayload m params with
  | .ok hd, .ok pl => .ok (hd ++ pl)
  | .error e, _ => .error e
  | .ok _, .error e => .error e

/-- One statement of the assembly language (R71). -/
def assembleStmt : Source → Except EncodeError (List Byte)
  | .solid w h r g b => encodeFile w h 1 [r, g, b]
  | .vgrad w h r1 g1 b1 r2 g2 b2 => encodeFile w h 2 [r1, g1, b1, r2, g2, b2]
  | .hgrad w h r1 g1 b1 r2 g2 b2 => encodeFile w h 3 [r1, g1, b1, r2, g2, b2]
  | .checker w h r1 g1 b1 r2 g2 b2 => encodeFile w h 4 [r1, g1, b1, r2, g2, b2]
  | .bytes bs => packBytes bs

/-- An instruction as the source statement that denotes it (R71). -/
def Instr.source : Instr → Source
  | .solid w h r g b => .solid w.toNat h.toNat r.toNat g.toNat b.toNat
  | .vgrad w h r1 g1 b1 r2 g2 b2 =>
    .vgrad w.toNat h.toNat r1.toNat g1.toNat b1.toNat r2.toNat g2.toNat b2.toNat
  | .hgrad w h r1 g1 b1 r2 g2 b2 =>
    .hgrad w.toNat h.toNat r1.toNat g1.toNat b1.toNat r2.toNat g2.toNat b2.toNat
  | .checker w h r1 g1 b1 r2 g2 b2 =>
    .checker w.toNat h.toNat r1.toNat g1.toNat b1.toNat r2.toNat g2.toNat b2.toNat

/-- The assembler (R71): the statement's bytes, then the `.trail` bytes. -/
def assemble (p : SourceProgram) : Except EncodeError (List Byte) :=
  match assembleStmt p.stmt, packBytes p.trail with
  | .ok bs, .ok tr => .ok (bs ++ tr)
  | .error e, _ => .error e
  | .ok _, .error e => .error e

end Sys2Proof
end

