-- ==== Sys2Proof/Machine/State.lean ====
section
/-! DEFINITION. The state of SCIF-RAST v1 (10_state.md R10), the host's moves (70_reset_and_hazards.md R199), and
the machine right after hardware reset (R27, R190). -/

namespace Sys2Proof.Machine

/-- `PHASE` (R17). The value 7 is never produced by any rule and is unrepresentable, as R17 and U9 allow. -/
inductive Phase where
  | idle
  | header
  | dispatch
  | setup
  | render
  | done
  | error
  deriving DecidableEq, Repr

/-- `ERR` (R20): the five error kinds of R160 and "no error". The codes 6 and 7 are unrepresentable (U9); code 4,
`RANGE`, is named because R20 names it, and no step writes it (R164). -/
inductive ErrKind where
  | noError
  | truncatedHeader
  | payloadTooShort
  | unknownMode
  | range
  | emptyDimension
  deriving DecidableEq, Repr

/-- `CFG.ZDIM`, the zero-dimension policy (R5, R19): `emitEmpty` is 0, `reject` is 1. -/
inductive ZeroPolicy where
  | emitEmpty
  | reject
  deriving DecidableEq, Repr

/-- A memory space: a partial map from natural addresses, as a list with strictly rising addresses. `Memory Byte` is
a list of `Host.Cell`. An unlisted address holds no value (R26, R27). -/
abbrev Memory (α : Type) := List (Nat × α)

/-- Everything the host can do (R199), with the register numbers of R22, and the hardware reset line (R190).
START and RESET are writes of `CTRL`, register 0. -/
inductive HostAction where
  | writeReg (n v : Nat)
  | readReg (n : Nat)
  | writeCmd (offset : Nat) (b : Byte)
  | readCmd (offset : Nat)
  | readPix (index : Nat)
  | hardwareReset
  deriving DecidableEq, Repr

/-- Whose move a step is (R7): one engine step, or one host action. -/
inductive Turn where
  | engine
  | host (a : HostAction)
  deriving DecidableEq, Repr

/-- What the register interface returns to the host's read (R199). -/
inductive Reply where
  | reg (v : Nat)
  | byte (b : Byte)
  | pixel (c : Colour)
  deriving DecidableEq, Repr

/-- The machine. The first thirteen fields are the spec's, all of R10; the last four are the model's own. -/
@[ext]
structure State where
  /-- `WIDTH` (R11) -/
  width : Half
  /-- `HEIGHT` (R12) -/
  height : Half
  /-- `MODE` (R13) -/
  mode : Byte
  /-- `C1` (R14) -/
  c1 : Colour
  /-- `C2` (R15) -/
  c2 : Colour
  /-- `X` (R18) -/
  x : Half
  /-- `Y` (R18) -/
  y : Half
  /-- `PHASE` (R17) -/
  phase : Phase
  /-- `ERR` (R20) -/
  err : ErrKind
  /-- `CFG.ZDIM` (R19) -/
  zdim : ZeroPolicy
  /-- `LEN` (R23) -/
  len : Nat
  /-- `CMD` (R25, R40): the bytes the host has written -/
  cmd : Memory Byte
  /-- `PIX` (R26, R41): the pixels of the current run -/
  pix : Memory Colour
  /-- the model's own: who moves next; when the list is empty the engine does (log entry 3) -/
  turns : List Turn
  /-- the model's own: what the host's last read returned (log entry 9) -/
  reply : Option Reply
  /-- the model's own: hardware resets so far, the argument of `Config.powerOnByte` (log entry 10) -/
  cmdEpoch : Nat
  /-- the model's own: how often `PIX` was emptied, an argument of `Config.unspecifiedPixRead` (log entry 10) -/
  pixEpoch : Nat
  deriving DecidableEq, Repr

/-- Why a step stops with a fault. -/
inductive Fault where
  /-- A RENDER step with `MODE` outside 1 to 4. Raised by `step` alone; R95: "may make the default a model fault that
  no run reaches". Safe: no state that meets `Inv` raises it. -/
  | noColourRule
  deriving DecidableEq, Repr

/-- Why a step is refused. -/
inductive Refusal where
  /-- An instruction without a meaning, by its mnemonic. Raised by an arm of `exec` only, and no arm does. Safe. -/
  | notModelled (mnemonic : String)
  deriving DecidableEq, Repr

/-- The machine right after hardware reset (R27, R190). Every value of the spec's fields is the spec's; the bytes of
`CMD` are unspecified, so none is listed. The last four values are the model's (log entries 3, 9, 10). -/
def State.reset : State where
  width := 0#16
  height := 0#16
  mode := 0#8
  c1 := Colour.zero
  c2 := Colour.zero
  x := 0#16
  y := 0#16
  phase := .idle
  err := .noError
  zdim := .emitEmpty
  len := 0
  cmd := []
  pix := []
  turns := []
  reply := none
  cmdEpoch := 0
  pixEpoch := 0

end Sys2Proof.Machine
end

