-- ==== Sys2Proof/Machine/Flags.lean ====
section
/-! DEFINITION. The numbers of `PHASE` and `ERR` (R17, R20) and the status flags derived from `PHASE` (R21, R22,
R172). The block has no arithmetic flags: "no instruction sets a carry, zero, sign or overflow flag" (R21). -/

namespace Sys2Proof.Machine

/-- The 3-bit value of `PHASE` (R17). -/
def phaseCode : Phase → BitVec 3
  | .idle => 0#3
  | .header => 1#3
  | .dispatch => 2#3
  | .setup => 3#3
  | .render => 4#3
  | .done => 5#3
  | .error => 6#3

/-- The 3-bit value of `ERR` (R20, R160). -/
def errCode : ErrKind → BitVec 3
  | .noError => 0#3
  | .truncatedHeader => 1#3
  | .payloadTooShort => 2#3
  | .unknownMode => 3#3
  | .range => 4#3
  | .emptyDimension => 5#3

/-- The bit `CFG.ZDIM` (R19). -/
def zdimBit : ZeroPolicy → Bool
  | .emitEmpty => false
  | .reject => true

/-- `BUSY` (R21): `PHASE` in 1 to 4. -/
def busyFlag (s : State) : Bool :=
  match s.phase with
  | .header | .dispatch | .setup | .render => true
  | .idle | .done | .error => false

/-- `DONE` (R21), also a level output (R172). -/
def doneFlag (s : State) : Bool := s.phase == .done

/-- `ERROR` (R21), also a level output (R172). -/
def errorFlag (s : State) : Bool := s.phase == .error

/-- "halted when `PHASE ∈ {IDLE, DONE, ERROR}`" (R17). -/
def halted (s : State) : Bool := !busyFlag s

/-- One flag as one bit. -/
def flagBit (b : Bool) : BitVec 1 := BitVec.ofBool b

/-- `STATUS` (R22): bits 2:0 `PHASE`, bit 3 `BUSY`, bit 4 `DONE`, bit 5 `ERROR`, bits 7:6 zero. -/
def statusByte (s : State) : BitVec 8 :=
  0#2 ++ flagBit (errorFlag s) ++ flagBit (doneFlag s) ++ flagBit (busyFlag s) ++ phaseCode s.phase

end Sys2Proof.Machine
end

