-- ==== Sys2Proof/Machine/Ops.lean ====
section
/-! DEFINITION. The named operations over memory and registers: the two memory spaces, trap entry and the two ways
out of it, and the effects that the engine steps of every instruction share. -/

namespace Sys2Proof.Machine

/-! ## Memory spaces -/

/-- The value at an address; none where nothing is listed. -/
def Memory.read {α : Type} : Memory α → Nat → Option α
  | [], _ => none
  | (b, v) :: m, a => if a = b then some v else Memory.read m a

/-- Store at an address, keeping the addresses strictly rising. -/
def Memory.write {α : Type} : Memory α → Nat → α → Memory α
  | [], a, v => [(a, v)]
  | (b, u) :: m, a, v =>
    if a < b then (a, v) :: (b, u) :: m
    else if a = b then (a, v) :: m
    else (b, u) :: Memory.write m a v

/-- The canonical form: strictly rising addresses. (No entry can equal what an unlisted address reads as, which is no
value.) -/
abbrev Memory.wf {α : Type} (m : Memory α) : Prop := (m.map Prod.fst).Pairwise (· < ·)

/-! ## The model's own fields -/

/-- The turns to come (log entry 3). -/
def setTurns (ts : List Turn) (s : State) : State := { s with turns := ts }

/-- What the host's read returned (log entry 9). -/
def setReply (r : Reply) (s : State) : State := { s with reply := some r }

/-! ## Taking a trap, and leaving `ERROR` -/

/-- Trap entry (60_exceptions.md R167): `ERR <- code(Kind)`, `PHASE <- ERROR`, and "Nothing else changes". -/
def trapEntry (k : ErrKind) (s : State) : State := { s with err := k, phase := .error }

/-- What START and RESET both clear (R80, R191): every engine-written register and `PIX`. -/
def clearEngine (s : State) : State :=
  { s with width := 0#16, height := 0#16, mode := 0#8, c1 := Colour.zero, c2 := Colour.zero, x := 0#16, y := 0#16,
           err := .noError, pix := [], pixEpoch := s.pixEpoch + 1 }

/-- The effect of START on a halted engine (R80); from `ERROR` it is one of the two ways out (R170). -/
def beginRun (s : State) : State := { clearEngine s with phase := .header }

/-- START (R80): "ignored" while the engine is busy (R194). -/
def startCmd (s : State) : State := if halted s then beginRun s else s

/-- RESET (R191): accepted in every phase; `CFG`, `LEN` and `CMD` are preserved. -/
def resetCmd (s : State) : State := { clearEngine s with phase := .idle }

/-! ## The effects of the engine steps -/

/-- HEADER's loads (R81). -/
def loadHeader (w h : Half) (m : Byte) (s : State) : State :=
  { s with width := w, height := h, mode := m, phase := .dispatch }

/-- DISPATCH's loads for format S (R92): `C2` "is not loaded and keeps" its value. -/
def loadPayloadS (c1 : Colour) (s : State) : State := { s with c1 := c1, phase := .setup }

/-- DISPATCH's loads for format P (R92). -/
def loadPayloadP (c1 c2 : Colour) (s : State) : State := { s with c1 := c1, c2 := c2, phase := .setup }

/-- SETUP (R94): the zero-dimension policy, or the start of the scan. -/
def setupStep (s : State) : State :=
  if s.width = 0#16 ∨ s.height = 0#16 then
    match s.zdim with
    | .reject => trapEntry .emptyDimension s
    | .emitEmpty => { s with phase := .done }
  else { s with x := 0#16, y := 0#16, phase := .render }

/-- The index of the pixel at (`X`, `Y`): `Y*WIDTH + X`, "computed without wrap-around" (R96, R41). -/
def pixIndex (s : State) : Nat := s.y.toNat * s.width.toNat + s.x.toNat

/-- `PIX[i] <- c`. -/
def writePix (i : Nat) (c : Colour) (s : State) : State := { s with pix := Memory.write s.pix i c }

/-- Scan advance in raster order (R97). `X < WIDTH − 1` is read as `X + 1 < WIDTH`, the same on integers (log entry
14). -/
def advance (s : State) : State :=
  if s.x.toNat + 1 < s.width.toNat then { s with x := s.x + 1#16 }
  else if s.y.toNat + 1 < s.height.toNat then { s with x := 0#16, y := s.y + 1#16 }
  else { s with phase := .done }

/-- RENDER of one pixel (R96): store the colour, then advance. -/
def renderStep (c : Colour) (s : State) : State := advance (writePix (pixIndex s) c s)

end Sys2Proof.Machine
end

