-- ==== Sys2Proof/Machine/Operands.lean ====
section
/-! DEFINITION. The operands of the engine steps: bytes of `CMD`, the header and payload fields, the instruction a
run is executing, the packed views of the registers. -/

namespace Sys2Proof.Machine

/-- The byte `CMD` holds at an offset; one that was never written holds the free value `Config.powerOnByte` (R27, log
entry 6). -/
def cmdByte (s : State) (i : Nat) : Byte := (Memory.read s.cmd i).getD (Config.powerOnByte s.cmdEpoch i)

/-- `n` bytes of `CMD` from offset `a` on. -/
def cmdBytes (s : State) (a n : Nat) : List Byte := (List.range n).map fun k => cmdByte s (a + k)

/-- `MemRead(CMD, a, 2)`: big-endian (00_scope.md section 5, R43). -/
def cmdHalf (s : State) (a : Nat) : Half := bigEndian (cmdByte s a) (cmdByte s (a + 1))

/-- The triplet at `CMD[a .. a+2]`. -/
def cmdColour (s : State) (a : Nat) : Colour := ⟨cmdByte s a, cmdByte s (a + 1), cmdByte s (a + 2)⟩

/-- The command bytes a run can read: offsets below `LEN` and below 11, since "offsets 11 and above ... are never
read" (R45, R23). -/
def command (s : State) : List Byte := cmdBytes s 0 (min s.len maxInstrLen)

/-- The payload bytes a run can read: `CMD[5 ..]` below `LEN` and below 11 (R82). -/
def payload (s : State) : List Byte := cmdBytes s hdrLen (min s.len maxInstrLen - hdrLen)

/-- The instruction the operand registers hold once DISPATCH has loaded them. -/
def latchedInstr (s : State) : Option Instr :=
  if s.mode = 1#8 then some (.solid s.width s.height s.c1.r s.c1.g s.c1.b)
  else if s.mode = 2#8 then
    some (.vgrad s.width s.height s.c1.r s.c1.g s.c1.b s.c2.r s.c2.g s.c2.b)
  else if s.mode = 3#8 then
    some (.hgrad s.width s.height s.c1.r s.c1.g s.c1.b s.c2.r s.c2.g s.c2.b)
  else if s.mode = 4#8 then
    some (.checker s.width s.height s.c1.r s.c1.g s.c1.b s.c2.r s.c2.g s.c2.b)
  else none

/-- The instruction of a decoding, if it gave one. -/
def decoded : Except DecodeError (Instr × List Byte) → Option Instr
  | .ok (i, _) => some i
  | .error _ => none

/-- The instruction the engine's next step belongs to: HEADER decodes it from `CMD`; DISPATCH from the header
registers and the payload in `CMD`; SETUP and RENDER "work from the operand registers" (R45). None where the engine
is halted or the command is no instruction. -/
def inFlight (s : State) : Option Instr :=
  match s.phase with
  | .header => decoded (decode (command s))
  | .dispatch => decoded (decodeBody s.width s.height s.mode (payload s))
  | .setup | .render => latchedInstr s
  | .idle | .done | .error => none

/-- The 24-bit view of a triplet: `r ‖ g ‖ b` (R42). -/
def colourWord (c : Colour) : BitVec 24 := c.r ++ c.g ++ c.b

end Sys2Proof.Machine
end

