-- ==== Sys2Proof/Machine/Sequence.lean ====
section
/-! DEFINITION. What the engine steps of all instructions share: the sequence of phases of one instruction
(41_dispatch_and_scan.md R81, R92, R94, R96), given what the instruction itself adds, its header fields, its payload
load and its colour rule. -/

namespace Sys2Proof.Machine

/-- One engine step of an instruction with header `w`, `h`, `m`, payload load `load` and colour rule `colour`. A
halted engine takes no step (R17): its state stays as it is (log entry 4). -/
def instrStep (w h : Half) (m : Byte) (load : State → State) (colour : State → Colour) (s : State) : State :=
  match s.phase with
  | .header => loadHeader w h m s
  | .dispatch => load s
  | .setup => setupStep s
  | .render => renderStep (colour s) s
  | .idle | .done | .error => s

end Sys2Proof.Machine
end

