-- ==== Sys2Proof/Machine/Checker.lean ====
section
/-! DEFINITION. Mode 4, CHECKER (44_checkerboard.md R135, R136). -/

namespace Sys2Proof.Machine

/-- `TILE` (R136): "a constant of v1, not an operand and not configurable". -/
abbrev tileSize : Nat := 8

/-- `Checker(C1, C2, x, y)` (R135). -/
def checkerColour (c1 c2 : Colour) (x y : Nat) : Colour :=
  if (x / tileSize + y / tileSize) % 2 = 0 then ⟨c1.r, c1.g, c1.b⟩ else ⟨c2.r, c2.g, c2.b⟩

/-- CHECKER: one engine step of the instruction (R135). -/
def execChecker (w h : Half) (r1 g1 b1 r2 g2 b2 : Byte) (s : State) : Host.Outcome State Fault Refusal :=
  .next (instrStep w h 4#8 (loadPayloadP ⟨r1, g1, b1⟩ ⟨r2, g2, b2⟩)
    (fun t => checkerColour t.c1 t.c2 t.x.toNat t.y.toNat) s)

end Sys2Proof.Machine
end

