-- ==== Sys2Proof/Machine/Arith.lean ====
section
/-! DEFINITION. The arithmetic of the gradients (43_gradients.md R115 to R118). -/

namespace Sys2Proof.Machine

/-- `clamp255` (00_scope.md section 5). -/
def clamp255 (v : Int) : Int := if v < 0 then 0 else if 255 < v then 255 else v

/-- A value already in 0 to 255 as a channel. -/
def channel (v : Int) : Byte := BitVec.ofInt 8 v

/-- The numerator `s*n + (e − s)*p` (R116). -/
def interpNum (s e : Byte) (p n : Nat) : Int := (s.toNat : Int) * n + ((e.toNat : Int) - s.toNat) * p

/-- `Interp(s, e, p, n)` in the integer form "the hardware computes" (R116), with the clamp of its first form kept
(D23). For `n = 0` "no division is performed" and the start value results (R118). -/
def interp (s e : Byte) (p n : Nat) : Byte :=
  if n = 0 then s else channel (clamp255 ((2 * interpNum s e p n + n) / (2 * n)))

/-- `Interp` at the widths of the datapath table (R121), operands in their registers, for `1 ≤ n`. No rule needs it; a
statement holds it to `interp`. -/
def interpDatapath (s e : Byte) (p n : Half) : Byte :=
  let d : BitVec 9 := e.setWidth 9 - s.setWidth 9
  let dp : BitVec 25 := d.signExtend 25 * p.setWidth 25
  let num : BitVec 24 := s.setWidth 24 * n.setWidth 24 + dp.setWidth 24
  let dividend : BitVec 25 := 2#25 * num.setWidth 25 + n.setWidth 25
  let divisor : BitVec 17 := 2#17 * n.setWidth 17
  (dividend / divisor.setWidth 25).setWidth 8

/-- Round half away from zero, of an exact rational (R117). -/
def roundHalfAway (v : Rat) : Int := if 0 ≤ v then ⌊v + 1 / 2⌋ else -⌊-v + 1 / 2⌋

/-- `Interp(s, e, p, n)` in its defining form over exact rationals (R116): the reading `interp` is held to. -/
def interpExact (s e : Byte) (p n : Nat) : Byte :=
  if n = 0 then s
  else channel (clamp255 (roundHalfAway ((s.toNat : Rat) + ((e.toNat : Rat) - s.toNat) * p / n)))

/-- `Interp` of the three channels, each by itself (R125). -/
def interpColour (c1 c2 : Colour) (p n : Nat) : Colour :=
  ⟨interp c1.r c2.r p n, interp c1.g c2.g p n, interp c1.b c2.b p n⟩

end Sys2Proof.Machine
end

