-- ==== Sys2Proof/Machine/Gradient.lean ====
section
/-! DEFINITION. Modes 2 and 3, VGRAD and HGRAD (43_gradients.md R115, R119, R120). -/

namespace Sys2Proof.Machine

/-- `VGrad(C1, C2, HEIGHT, y)` (R119): position `y`, denominator `HEIGHT − 1` (R115). -/
def vgradColour (c1 c2 : Colour) (height y : Nat) : Colour := interpColour c1 c2 y (height - 1)

/-- `HGrad(C1, C2, WIDTH, x)` (R120): position `x`, denominator `WIDTH − 1` (R115). -/
def hgradColour (c1 c2 : Colour) (width x : Nat) : Colour := interpColour c1 c2 x (width - 1)

/-- VGRAD: one engine step of the instruction (R119). -/
def execVgrad (w h : Half) (r1 g1 b1 r2 g2 b2 : Byte) (s : State) : Host.Outcome State Fault Refusal :=
  .next (instrStep w h 2#8 (loadPayloadP ⟨r1, g1, b1⟩ ⟨r2, g2, b2⟩)
    (fun t => vgradColour t.c1 t.c2 t.height.toNat t.y.toNat) s)

/-- HGRAD: one engine step of the instruction (R120). -/
def execHgrad (w h : Half) (r1 g1 b1 r2 g2 b2 : Byte) (s : State) : Host.Outcome State Fault Refusal :=
  .next (instrStep w h 3#8 (loadPayloadP ⟨r1, g1, b1⟩ ⟨r2, g2, b2⟩)
    (fun t => hgradColour t.c1 t.c2 t.width.toNat t.x.toNat) s)

end Sys2Proof.Machine
end

