-- ==== Sys2Proof/Machine/Solid.lean ====
section
/-! DEFINITION. Mode 1, SOLID (42_solid.md R110). -/

namespace Sys2Proof.Machine

/-- `Solid(C1) = (C1.R, C1.G, C1.B)` (R110): "the three bytes are copied bit for bit". -/
def solidColour (c1 : Colour) : Colour := ⟨c1.r, c1.g, c1.b⟩

/-- SOLID: one engine step of the instruction (R110). -/
def execSolid (w h : Half) (r g b : Byte) (s : State) : Host.Outcome State Fault Refusal :=
  .next (instrStep w h 1#8 (loadPayloadS ⟨r, g, b⟩) (fun t => solidColour t.c1) s)

end Sys2Proof.Machine
end

