-- ==== Sys2Proof/Machine/Dispatch.lean ====
section
/-! DEFINITION. One arm per instruction. -/

namespace Sys2Proof.Machine

-- One engine step of instruction i in state s.
def exec (i : Instr) (s : State) : Host.Outcome State Fault Refusal :=
  match i with
  | .solid w h r g b => Sys2Proof.Machine.execSolid w h r g b s
  | .vgrad w h r1 g1 b1 r2 g2 b2 => Sys2Proof.Machine.execVgrad w h r1 g1 b1 r2 g2 b2 s
  | .hgrad w h r1 g1 b1 r2 g2 b2 => Sys2Proof.Machine.execHgrad w h r1 g1 b1 r2 g2 b2 s
  | .checker w h r1 g1 b1 r2 g2 b2 => Sys2Proof.Machine.execChecker w h r1 g1 b1 r2 g2 b2 s

end Sys2Proof.Machine
end

