-- ==== Sys2Proof/Machine/Fetch.lean ====
section
/-! DEFINITION. Fetching: the HEADER step (40_header_decode.md R81), the steps of a command that is no instruction
(R90, R91), and placing a command where the next step fetches it. -/

namespace Sys2Proof.Machine

/-- The HEADER step (R81): fewer than 5 bytes trap before any byte is read; else the header is loaded, whatever the
mode byte is. -/
def headerStep (s : State) : State :=
  if s.len < hdrLen then trapEntry .truncatedHeader s
  else loadHeader (cmdHalf s 0) (cmdHalf s 2) (cmdByte s 4) s

/-- The trap DISPATCH takes when the command is no instruction: the mode is checked before the payload length (R90,
R91, R166). -/
def dispatchTrap (s : State) : ErrKind :=
  match reqLen s.mode with
  | none => .unknownMode
  | some _ => .payloadTooShort

/-- The engine step where no instruction is in flight. SETUP does not read `MODE`, so R94 applies as it stands (log
entry 13); RENDER has no colour rule to apply (R95, log entry 12). -/
def noInstrStep (s : State) : Host.Outcome State Fault Refusal :=
  match s.phase with
  | .header => .next (headerStep s)
  | .dispatch => .next (trapEntry (dispatchTrap s) s)
  | .setup => .next (setupStep s)
  | .render => .fault .noColourRule
  | .idle | .done | .error => .next s

/-- Write a list of bytes to `CMD` from offset `a` on. -/
def storeCmd : List Byte → Nat → Memory Byte → Memory Byte
  | [], _, m => m
  | b :: bs, a, m => storeCmd bs (a + 1) (Memory.write m a b)

/-- A command placed in `CMD` and a run begun on it: the bytes stored from offset 0, `LEN` their number, START's
effect (R80), no host turn pending. Log entry 2. -/
def loadAndBegin (bs : List Byte) (s : State) : State :=
  { beginRun s with cmd := storeCmd bs 0 s.cmd, len := bs.length, turns := [] }

end Sys2Proof.Machine
end

