-- ==== Sys2Proof/Machine/HostPort.lean ====
section
/-! DEFINITION. The host's side: the register interface (10_state.md R22), the memory accesses, START, RESET and
hardware reset (70_reset_and_hazards.md R190 to R199), the pixel beat and the hand-off to the sink. -/

namespace Sys2Proof.Machine

/-- The current value of register number `n` (R22); `CTRL` reads 0, and so do the numbers 12 and above. -/
def regValue (s : State) (n : Nat) : Nat :=
  match n with
  | 1 => (flagBit (zdimBit s.zdim)).toNat
  | 2 => s.len
  | 3 => (statusByte s).toNat
  | 4 => (errCode s.err).toNat
  | 5 => s.width.toNat
  | 6 => s.height.toNat
  | 7 => s.mode.toNat
  | 8 => (colourWord s.c1).toNat
  | 9 => (colourWord s.c2).toNat
  | 10 => s.x.toNat
  | 11 => s.y.toNat
  | _ => 0

/-- Write `CTRL` (R22): bit 1 strobes RESET, bit 0 START; "If both are 1, RESET wins"; "writing 0 does nothing". -/
def writeCtrl (v : Nat) (s : State) : State :=
  if v.testBit 1 then resetCmd s else if v.testBit 0 then startCmd s else s

/-- Write `CFG` (R19): bit 0 is `ZDIM`, writes to bits 7:1 are ignored; "ignored" while busy (R193). -/
def writeCfg (v : Nat) (s : State) : State :=
  if halted s then { s with zdim := if v.testBit 0 then .reject else .emitEmpty } else s

/-- Write `LEN` (R23); ignored while busy (R193). -/
def writeLen (v : Nat) (s : State) : State := if halted s then { s with len := v } else s

/-- Write a register (R22): only `CTRL`, `CFG` and `LEN` are writable; every other write is ignored. -/
def writeReg (n v : Nat) (s : State) : State :=
  match n with
  | 0 => writeCtrl v s
  | 1 => writeCfg v s
  | 2 => writeLen v s
  | _ => s

/-- Write `CMD[i]` (R199); ignored while busy (R193). -/
def writeCmd (i : Nat) (b : Byte) (s : State) : State :=
  if halted s then { s with cmd := Memory.write s.cmd i b } else s

/-- What a host read of `CMD[i]` returns (R199): the byte if `i < LEN`, else an unspecified value (log entry 8). -/
def cmdReadValue (s : State) (i : Nat) : Byte :=
  if i < s.len then cmdByte s i else Config.unspecifiedCmdRead s.cmdEpoch s.len i (Memory.read s.cmd i)

/-- What a host read of `PIX[i]` returns (R199): the run's pixel if `PHASE = DONE` and `i < WIDTH×HEIGHT`, else an
unspecified value (R195, log entry 7). -/
def pixReadValue (s : State) (i : Nat) : Colour :=
  if s.phase = .done ∧ i < s.width.toNat * s.height.toNat then
    (Memory.read s.pix i).getD (Config.unspecifiedPixRead s.pixEpoch i none)
  else Config.unspecifiedPixRead s.pixEpoch i (Memory.read s.pix i)

/-- The hardware reset line (R190): every piece of the spec's state at its reset value, from any state. The turns to
come stay, and the model's counters advance, so that unspecified contents may have changed (log entry 17). -/
def hardwareReset (s : State) : State :=
  { State.reset with turns := s.turns, cmdEpoch := s.cmdEpoch + 1, pixEpoch := s.pixEpoch + 1 }

/-- One host action (R199). Reads change nothing but the reply (R47). -/
def hostAct (a : HostAction) (s : State) : State :=
  match a with
  | .writeReg n v => writeReg n v s
  | .readReg n => setReply (.reg (regValue s n)) s
  | .writeCmd i b => writeCmd i b s
  | .readCmd i => setReply (.byte (cmdReadValue s i)) s
  | .readPix i => setReply (.pixel (pixReadValue s i)) s
  | .hardwareReset => hardwareReset s

/-- The value written to `CFG` for a policy (R19). -/
def cfgValue (z : ZeroPolicy) : Nat := (flagBit (zdimBit z)).toNat

/-- Steps 2 to 4 of the host's sequence for one run (R192): the file's bytes to `CMD`, `LEN`, `CFG`, START. -/
def bootScript (bs : List Byte) (z : ZeroPolicy) : List Turn :=
  bs.mapIdx (fun i b => .host (.writeCmd i b)) ++
    [.host (.writeReg 2 bs.length), .host (.writeReg 1 (cfgValue z)), .host (.writeReg 0 1)]

/-- One beat of the pixel interface (R196). -/
structure Beat where
  index : Nat
  x : Half
  y : Half
  colour : Colour
  deriving DecidableEq, Repr

/-- A finished image as the sink gets it (R41): width, height, the triplets in index order. -/
structure Image where
  width : Nat
  height : Nat
  pixels : List Colour
  deriving DecidableEq, Repr

/-- What the engine owes the host at the end of a run (R199, R99): the image at `DONE`, the error kind at `ERROR`;
nothing while busy or idle. -/
def runResult (s : State) : Option (Except ErrKind Image) :=
  match s.phase with
  | .done =>
    some (.ok ⟨s.width.toNat, s.height.toNat,
      (List.range (s.width.toNat * s.height.toNat)).filterMap (Memory.read s.pix)⟩)
  | .error => some (.error s.err)
  | .idle | .header | .dispatch | .setup | .render => none

end Sys2Proof.Machine
end

