-- ==== Sys2Proof/Machine/Engine.lean ====
section
/-! DEFINITION. One move of the machine: the engine's, or the host's. -/

namespace Sys2Proof.Machine

/-- One engine step: the instruction in flight is executed; without one the step is that of `noInstrStep`. A halted
engine "has no enabled step; only the host can move it" (R17): its state stays as it is (log entry 4). -/
def engineMove (s : State) : Host.Outcome State Fault Refusal :=
  match inFlight s with
  | some i => exec i s
  | none => noInstrStep s

/-- One move (R7): the next turn says whose it is; with no turn left it is the engine's (log entry 3). -/
def nextMove (s : State) : Host.Outcome State Fault Refusal :=
  match s.turns with
  | [] => engineMove s
  | .engine :: ts => engineMove (setTurns ts s)
  | .host a :: ts => .next (hostAct a (setTurns ts s))

end Sys2Proof.Machine
end

