-- ==== Sys2Proof/Machine/Step.lean ====
section
/-! DEFINITION. The step function, and placing a table word where the next step fetches it. -/

namespace Sys2Proof.Machine

/-- One step of the machine: one engine step or one host action (00_scope.md R7). -/
def step (s : State) : Host.Outcome State Fault Refusal := nextMove s

/-- `s` with the instruction of a table word in `CMD` and a run begun on it, so that the very next step is that
instruction's HEADER step (log entry 2). -/
def State.withFetchWord (s : State) (nbits w : Nat) : State := loadAndBegin (tableBytes nbits w) s

end Sys2Proof.Machine
end

