-- ==== Sys2Proof/Machine/Reference.lean ====
section
/-! DEFINITION. The spec's own pseudocode of an engine step and of a whole run (41_dispatch_and_scan.md R90 to R100),
by phase and by `MODE`, without decoding an instruction. `step` does not use it; statements hold `step` to it. -/

namespace Sys2Proof.Machine

/-- `Colour(MODE, C1, C2, WIDTH, HEIGHT, x, y)` (R95), "defined for `MODE ∈ {1,2,3,4}`". -/
def colourOf (m : Byte) (c1 c2 : Colour) (width height x y : Nat) : Option Colour :=
  if m = 1#8 then some (solidColour c1)
  else if m = 2#8 then some (vgradColour c1 c2 height y)
  else if m = 3#8 then some (hgradColour c1 c2 width x)
  else if m = 4#8 then some (checkerColour c1 c2 x y)
  else none

/-- The colour of pixel (x, y) from the operand registers. -/
def colourAt (s : State) (x y : Nat) : Option Colour := colourOf s.mode s.c1 s.c2 s.width.toNat s.height.toNat x y

/-- The beat the next step presents on the pixel interface, in `RENDER` (R196). -/
def beat (s : State) : Option Beat :=
  match s.phase with
  | .render => (colourAt s s.x.toNat s.y.toNat).map fun c => ⟨pixIndex s, s.x, s.y, c⟩
  | .idle | .header | .dispatch | .setup | .done | .error => none

/-- The DISPATCH step (R90, R91, R92), in the order of the pseudocode. `LEN − 5 < REQ` is read over integers. -/
def dispatchStep (s : State) : State :=
  match reqLen s.mode with
  | none => trapEntry .unknownMode s
  | some n =>
    if (s.len : Int) - 5 < n then trapEntry .payloadTooShort s
    else if n = 6 then loadPayloadP (cmdColour s 5) (cmdColour s 8) s
    else loadPayloadS (cmdColour s 5) s

/-- One engine step by phase (R81, R90 to R92, R94, R96). -/
def phaseStep (s : State) : Host.Outcome State Fault Refusal :=
  match s.phase with
  | .header => .next (headerStep s)
  | .dispatch => .next (dispatchStep s)
  | .setup => .next (setupStep s)
  | .render =>
    match colourAt s s.x.toNat s.y.toNat with
    | some c => .next (renderStep c s)
    | none => .fault .noColourRule
  | .idle | .done | .error => .next s

/-- `k` steps of the machine, stopping at the first fault or refusal (`Host.Core.run` of this machine). -/
def runFor : Nat → State → Host.Outcome State Fault Refusal
  | 0, s => .next s
  | k + 1, s =>
    match step s with
    | .next t => runFor k t
    | .fault f => .fault f
    | .refused r => .refused r

/-- Byte `i` of a command. -/
def byteAt (bs : List Byte) (i : Nat) : Byte := bs.getD i 0#8

/-- The pixels of an image, "y outer, x inner" (R100). -/
def rasterPixels (m : Byte) (c1 c2 : Colour) (w h : Nat) : List Colour :=
  (List.range h).flatMap fun y => (List.range w).filterMap fun x => colourOf m c1 c2 w h x y

/-- `Run(CMD, LEN, ZDIM)` (R100), of the bytes `CMD[0 .. LEN−1]`. -/
def wholeRun (bs : List Byte) (z : ZeroPolicy) : Except ErrKind Image :=
  if bs.length < 5 then .error .truncatedHeader
  else
    let w := bigEndian (byteAt bs 0) (byteAt bs 1)
    let h := bigEndian (byteAt bs 2) (byteAt bs 3)
    let m := byteAt bs 4
    match reqLen m with
    | none => .error .unknownMode
    | some n =>
      if bs.length - 5 < n then .error .payloadTooShort
      else
        let c1 : Colour := ⟨byteAt bs 5, byteAt bs 6, byteAt bs 7⟩
        let c2 : Colour := if n = 6 then ⟨byteAt bs 8, byteAt bs 9, byteAt bs 10⟩ else Colour.zero
        if w = 0#16 ∨ h = 0#16 then
          match z with
          | .reject => .error .emptyDimension
          | .emitEmpty => .ok ⟨w.toNat, h.toNat, []⟩
        else .ok ⟨w.toNat, h.toNat, rasterPixels m c1 c2 w.toNat h.toNat⟩

/-- The number of engine steps a run takes (R98). -/
def runSteps (bs : List Byte) : Nat :=
  if bs.length < 5 then 1
  else
    match reqLen (byteAt bs 4) with
    | none => 2
    | some n =>
      if bs.length - 5 < n then 2
      else 3 + (bigEndian (byteAt bs 0) (byteAt bs 1)).toNat * (bigEndian (byteAt bs 2) (byteAt bs 3)).toNat

/-- The bytes `CMD[0 .. LEN−1]`, the program of a run (R8). -/
def program (s : State) : List Byte := cmdBytes s 0 s.len

end Sys2Proof.Machine
end

