-- ==== Sys2Proof/Safety.lean ====
section
/-! DEFINITION. What a good state of the machine is, in the terms the claims use: the invariant of every step, and
which fields are the engine's, the host's and a run's. -/

namespace Sys2Proof.Machine

/-- The registers and `PIX` as START and RESET leave them (R80, R191). -/
def Cleared (s : State) : Prop :=
  s.width = 0#16 ∧ s.height = 0#16 ∧ s.mode = 0#8 ∧ s.c1 = Colour.zero ∧ s.c2 = Colour.zero ∧ s.x = 0#16 ∧ s.y = 0#16 ∧
    s.pix = []

/-- `MODE` names a rule, and `C2` is still cleared in mode 1 (R13, R15). -/
def ModeValid (s : State) : Prop := (reqLen s.mode).isSome ∧ (s.mode = 1#8 → s.c2 = Colour.zero)

/-- `PIX` holds exactly the first `n` pixels of the raster order, each of its colour (R46, R99). -/
def PixIsRaster (s : State) (n : Nat) : Prop :=
  s.pix.map Prod.fst = List.range n ∧
    ∀ x y : Nat, x < s.width.toNat → y * s.width.toNat + x < n →
      Memory.read s.pix (y * s.width.toNat + x) = colourAt s x y

/-- What holds of the state in each phase (R17, R18, R46, R99, R161 to R168). -/
def PhaseInv (s : State) : Prop :=
  match s.phase with
  | .idle | .header => Cleared s
  | .dispatch =>
    5 ≤ s.len ∧ s.width = cmdHalf s 0 ∧ s.height = cmdHalf s 2 ∧ s.mode = cmdByte s 4 ∧ s.c1 = Colour.zero ∧
      s.c2 = Colour.zero ∧ s.x = 0#16 ∧ s.y = 0#16 ∧ s.pix = []
  | .setup => ModeValid s ∧ s.x = 0#16 ∧ s.y = 0#16 ∧ s.pix = []
  | .render => ModeValid s ∧ s.x.toNat < s.width.toNat ∧ s.y.toNat < s.height.toNat ∧ PixIsRaster s (pixIndex s)
  | .done =>
    ModeValid s ∧ PixIsRaster s (s.width.toNat * s.height.toNat) ∧
      (if s.width = 0#16 ∨ s.height = 0#16 then s.x = 0#16 ∧ s.y = 0#16
       else s.x.toNat + 1 = s.width.toNat ∧ s.y.toNat + 1 = s.height.toNat)
  | .error => s.x = 0#16 ∧ s.y = 0#16 ∧ s.pix = []

/-- The invariant: both memory spaces in canonical form, `ERR ≠ 0` exactly at `PHASE = ERROR` (R20), `ERR` never
`RANGE` (R164), and what each phase promises. -/
def Inv (s : State) : Prop :=
  Memory.wf s.cmd ∧ Memory.wf s.pix ∧ (s.err ≠ .noError ↔ s.phase = .error) ∧ s.err ≠ .range ∧ PhaseInv s

/-- The state the engine writes (R24): two states agree on it. -/
def SameEngine (s t : State) : Prop :=
  s.width = t.width ∧ s.height = t.height ∧ s.mode = t.mode ∧ s.c1 = t.c1 ∧ s.c2 = t.c2 ∧ s.x = t.x ∧ s.y = t.y ∧
    s.phase = t.phase ∧ s.err = t.err ∧ s.pix = t.pix

/-- The inputs of a run (R8): two states agree on `CMD[0 .. LEN−1]`, `LEN` and `CFG`. -/
def SameInputs (s t : State) : Prop := program s = program t ∧ s.zdim = t.zdim

/-- The fields the engine never writes (R8, R24): `CMD`, `LEN`, `CFG`, and the model's own. -/
def SameHostSide (s t : State) : Prop :=
  s.cmd = t.cmd ∧ s.len = t.len ∧ s.zdim = t.zdim ∧ s.turns = t.turns ∧ s.reply = t.reply ∧ s.cmdEpoch = t.cmdEpoch ∧
    s.pixEpoch = t.pixEpoch

/-- `t` is `s` after the RENDER step of a pixel of colour `c` (R96, R97): the pixel at `Y*WIDTH + X` holds `c`, every
other index reads as before, the scan has advanced in raster order, and nothing else has changed. -/
def Rendered (s : State) (c : Colour) (t : State) : Prop :=
  Memory.read t.pix (s.y.toNat * s.width.toNat + s.x.toNat) = some c ∧
    (∀ j, j ≠ s.y.toNat * s.width.toNat + s.x.toNat → Memory.read t.pix j = Memory.read s.pix j) ∧
    (if s.x.toNat + 1 < s.width.toNat then t.x.toNat = s.x.toNat + 1 ∧ t.y = s.y ∧ t.phase = s.phase
     else if s.y.toNat + 1 < s.height.toNat then t.x = 0#16 ∧ t.y.toNat = s.y.toNat + 1 ∧ t.phase = s.phase
     else t.x = s.x ∧ t.y = s.y ∧ t.phase = .done) ∧
    t.width = s.width ∧ t.height = s.height ∧ t.mode = s.mode ∧ t.c1 = s.c1 ∧ t.c2 = s.c2 ∧ t.err = s.err ∧
    SameHostSide s t

/-- A run that never stops with a fault or a refusal. -/
def RunsOn (s : State) : Prop := ∀ k, ∃ t : State, runFor k s = .next t

end Sys2Proof.Machine
end

