-- ==== Sys2Proof/Certificates/Slice0/Obligations.lean ====
section
/-! DEFINITION. The statements for the provers, file by file of spec/. A step in which no host turn is pending
(`turns = []`) is an engine step; log entry 3 says why the turns are part of the state. -/

open Sys2Proof Sys2Proof.Machine

/-! ## 10_state.md: reset values, registers, flags -/

/-- R27 after hardware reset: every register and both spaces, and the derived flags. -/
def Obligations.ResetLeavesTheListedValues : Prop :=
  State.reset.phase = .idle ∧ State.reset.err = .noError ∧ State.reset.zdim = .emitEmpty ∧ State.reset.len = 0 ∧
    State.reset.width = 0#16 ∧ State.reset.height = 0#16 ∧ State.reset.mode = 0#8 ∧
    State.reset.c1 = ⟨0#8, 0#8, 0#8⟩ ∧ State.reset.c2 = ⟨0#8, 0#8, 0#8⟩ ∧ State.reset.x = 0#16 ∧ State.reset.y = 0#16 ∧
    (∀ i, Memory.read State.reset.cmd i = none) ∧ (∀ i, Memory.read State.reset.pix i = none) ∧
    busyFlag State.reset = false ∧ doneFlag State.reset = false ∧ errorFlag State.reset = false

/-- The hardware reset line as a host turn (R190; that it is a turn is log entry 17): from every state the spec's
fields go to their reset values. -/
def Obligations.HardwareResetFromEveryState : Prop :=
  ∀ (s : State) (ts : List Turn), s.turns = .host .hardwareReset :: ts →
    ∃ t, step s = .next t ∧ SameEngine t State.reset ∧ t.zdim = .emitEmpty ∧ t.len = 0 ∧
      (∀ i, Memory.read t.cmd i = none) ∧ t.turns = ts

/-- R21: the three flags are functions of `PHASE`. -/
def Obligations.FlagsAreDerivedFromPhase : Prop :=
  ∀ s : State,
    (busyFlag s = true ↔ 1 ≤ (phaseCode s.phase).toNat ∧ (phaseCode s.phase).toNat ≤ 4) ∧
    (doneFlag s = true ↔ (phaseCode s.phase).toNat = 5) ∧ (errorFlag s = true ↔ (phaseCode s.phase).toNat = 6)

/-- R22: every register number's layout as read, `CTRL` and the numbers 12 and above reading 0 (a read changes nothing
but what the host gets, R47); and writes to read-only registers and to numbers that do not exist are ignored. -/
def Obligations.HostReadsRegistersAndCannotWriteThem : Prop :=
  ∀ (s : State) (ts : List Turn) (n : Nat),
    (∀ v, s.turns = .host (.writeReg n v) :: ts → 3 ≤ n → step s = .next (setTurns ts s)) ∧
    (s.turns = .host (.readReg n) :: ts → ∃ v, step s = .next (setReply (.reg v) (setTurns ts s)) ∧
      (n = 0 → v = 0) ∧
      (n = 1 → v = if s.zdim = .reject then 1 else 0) ∧
      (n = 2 → v = s.len) ∧
      (n = 3 → v = (phaseCode s.phase).toNat + 8 * (if busyFlag s then 1 else 0) + 16 * (if doneFlag s then 1 else 0) +
        32 * (if errorFlag s then 1 else 0)) ∧
      (n = 4 → v = (errCode s.err).toNat) ∧
      (n = 5 → v = s.width.toNat) ∧
      (n = 6 → v = s.height.toNat) ∧
      (n = 7 → v = s.mode.toNat) ∧
      (n = 8 → v = s.c1.r.toNat * 65536 + s.c1.g.toNat * 256 + s.c1.b.toNat) ∧
      (n = 9 → v = s.c2.r.toNat * 65536 + s.c2.g.toNat * 256 + s.c2.b.toNat) ∧
      (n = 10 → v = s.x.toNat) ∧
      (n = 11 → v = s.y.toNat) ∧
      (12 ≤ n → v = 0))

/-- R199, first row, while halted: `CMD`, `LEN` and `CFG` store what is written; of `CFG` bit 0 only (R19). -/
def Obligations.HaltedHostWritesAreStored : Prop :=
  ∀ (s : State) (ts : List Turn), halted s = true →
    (∀ v, s.turns = .host (.writeReg 2 v) :: ts → step s = .next { setTurns ts s with len := v }) ∧
    (∀ v, s.turns = .host (.writeReg 1 v) :: ts →
      step s = .next { setTurns ts s with zdim := if v % 2 = 1 then .reject else .emitEmpty }) ∧
    (∀ i b, s.turns = .host (.writeCmd i b) :: ts →
      ∃ t, step s = .next t ∧ Memory.read t.cmd i = some b ∧
        (∀ j, j ≠ i → Memory.read t.cmd j = Memory.read s.cmd j) ∧ SameEngine s t ∧ t.len = s.len ∧ t.zdim = s.zdim ∧
        t.turns = ts)

/-- R13: `MODE` is "Written only by the HEADER step and cleared by START and RESET" (and by hardware reset, R190). -/
def Obligations.ModeWrittenOnlyByHeaderStartReset : Prop :=
  ∀ s t : State, step s = .next t → t.mode ≠ s.mode →
    (s.phase = .header ∧ (s.turns = [] ∨ ∃ ts, s.turns = .engine :: ts)) ∨
    (∃ v ts, s.turns = .host (.writeReg 0 v) :: ts ∧ t.mode = 0#8) ∨
    (∃ ts, s.turns = .host .hardwareReset :: ts ∧ t.mode = 0#8)

/-- R18: while `RENDER`, the counters are inside the image, and no step of a good state takes one past 65534. -/
def Obligations.ScanCountersStayBelow65535 : Prop :=
  ∀ s t : State, Inv s → step s = .next t →
    (t.phase = .render → t.x.toNat < t.width.toNat ∧ t.y.toNat < t.height.toNat) ∧
    (t.phase = .render ∨ t.phase = .done → t.x.toNat ≤ 65534 ∧ t.y.toNat ≤ 65534)

/-! ## 20_memory.md: the two spaces -/

/-- R43: width and height are big-endian, whatever the bytes. -/
def Obligations.WidthAndHeightAreBigEndian : Prop :=
  ∀ (b0 b1 b2 b3 m : Byte) (rest : List Byte),
    ∃ w h : Half, decodeHeader (b0 :: b1 :: b2 :: b3 :: m :: rest) = .ok (w, h, m, rest) ∧
      w.toNat = b0.toNat * 256 + b1.toNat ∧ h.toNat = b2.toNat * 256 + b3.toNat

/-- R46: in a good state every RENDER step writes an index not yet written, the number of pixels written so far, and
that index is within the image and below 65535². -/
def Obligations.EachPixelWrittenOnceInOrder : Prop :=
  ∀ s : State, Inv s → s.phase = .render →
    pixIndex s = s.pix.length ∧ Memory.read s.pix (pixIndex s) = none ∧
      pixIndex s < s.width.toNat * s.height.toNat ∧ pixIndex s ≤ 4294836224

/-- R8, R24, R40: an engine step never writes `CMD`, `LEN` or `CFG`, nor anything else of the host's side. -/
def Obligations.EngineNeverWritesItsInputs : Prop :=
  ∀ s t : State, s.turns = [] → step s = .next t → SameHostSide s t

/-- R45 and R53: two engines that agree on the registers, on `CFG`, on `LEN` and on the bytes of `CMD` below `LEN`
and below 11 take the same step. -/
def Obligations.EngineReadsOnlyElevenCommandBytes : Prop :=
  ∀ s s' : State, s.turns = [] → s'.turns = [] → SameEngine s s' → s.zdim = s'.zdim → s.len = s'.len →
    (∀ i, i < s.len → i < 11 → cmdByte s i = cmdByte s' i) →
    (∀ t, step s = .next t → ∃ t', step s' = .next t' ∧ SameEngine t t') ∧
      (∀ f, step s = .fault f → step s' = .fault f)

/-! ## 30_encoding.md and 45_encoder.md: decoding and encoding -/

/-- Decode and encode agree, for every instruction, with any trailing bytes (R62, R63, R67). -/
def Obligations.DecodeOfEncodeIsTheInstruction : Prop :=
  ∀ (i : Instr) (rest : List Byte), decode (encode i ++ rest) = .ok (i, rest)

/-- The other direction: what decodes is the encoding and its trailing bytes, so no two byte forms of one length stand
for one instruction. -/
def Obligations.DecodedBytesAreTheEncoding : Prop :=
  ∀ (bs rest : List Byte) (i : Instr), decode bs = .ok (i, rest) → bs = encode i ++ rest

/-- R68, R69, R166: which bytes are no instruction, and why, in the order of the checks. -/
def Obligations.DecoderRejectsByNameInOrder : Prop :=
  ∀ bs : List Byte,
    (decode bs = .error .truncatedHeader ↔ bs.length < 5) ∧
    (decode bs = .error .unknownMode ↔
      5 ≤ bs.length ∧ ∀ m, bs[4]? = some m → m ≠ 1#8 ∧ m ≠ 2#8 ∧ m ≠ 3#8 ∧ m ≠ 4#8) ∧
    (decode bs = .error .payloadTooShort ↔
      (bs[4]? = some 1#8 ∧ 5 ≤ bs.length ∧ bs.length < 8) ∨
      ((bs[4]? = some 2#8 ∨ bs[4]? = some 3#8 ∨ bs[4]? = some 4#8) ∧ 5 ≤ bs.length ∧ bs.length < 11))

/-- Words written out from R61 to R63 and the examples of 95_test_vectors.md decode to what they stand for. -/
def Obligations.SampleCommandsDecode : Prop :=
  decode [0x00#8, 0x64#8, 0x00#8, 0x32#8, 0x01#8, 0xFF#8, 0x00#8, 0x00#8] = .ok (.solid 100#16 50#16 255#8 0#8 0#8, []) ∧
  decode [0x00#8, 0x02#8, 0x00#8, 0x05#8, 0x02#8, 0x00#8, 0xFF#8, 0x0A#8, 0xFF#8, 0x00#8, 0x0D#8] =
    .ok (.vgrad 2#16 5#16 0#8 255#8 10#8 255#8 0#8 13#8, []) ∧
  decode [0x00#8, 0x04#8, 0x00#8, 0x04#8, 0x03#8, 0x00#8, 0x00#8, 0x00#8, 0xFF#8, 0xFF#8, 0xFF#8] =
    .ok (.hgrad 4#16 4#16 0#8 0#8 0#8 255#8 255#8 255#8, []) ∧
  decode [0x00#8, 0x10#8, 0x00#8, 0x10#8, 0x04#8, 0xFF#8, 0x00#8, 0x00#8, 0x00#8, 0x00#8, 0xFF#8] =
    .ok (.checker 16#16 16#16 255#8 0#8 0#8 0#8 0#8 255#8, [])

/-- R145, R146: what `encode_header` emits, and when it fails. -/
def Obligations.EncodeHeaderEmitsOrFails : Prop :=
  ∀ w h m : Int,
    ((w < 0 ∨ 65535 < w ∨ h < 0 ∨ 65535 < h ∨ m < 0 ∨ 255 < m) → encodeHeader w h m = .error .range) ∧
    (0 ≤ w → w ≤ 65535 → 0 ≤ h → h ≤ 65535 → 0 ≤ m → m ≤ 255 →
      ∃ b0 b1 b2 b3 b4 : Byte, encodeHeader w h m = .ok [b0, b1, b2, b3, b4] ∧
        (b0.toNat : Int) = w / 256 ∧ (b1.toNat : Int) = w % 256 ∧ (b2.toNat : Int) = h / 256 ∧
        (b3.toNat : Int) = h % 256 ∧ (b4.toNat : Int) = m)

/-- What `encode_payload` emits, and when it fails. From R147 and R148: the packing, and `RangeError` for a valid mode.
That a mode without fields fails with `UnknownModeError` is the spec's decision D20 (R147); that it does so whatever the
parameters are, out-of-range channels and any count included, is the model's choice of the order of failures (log entry
15, DESIGN CHOICE), and the last two clauses speak of the mode's number of parameters only. -/
def Obligations.EncodePayloadEmitsOrFails : Prop :=
  ∀ (m : Int) (ps : List Int),
    (¬ (m = 1 ∨ m = 2 ∨ m = 3 ∨ m = 4) → encodePayload m ps = .error .unknownMode) ∧
    ((m = 1 ∧ ps.length = 3) ∨ ((m = 2 ∨ m = 3 ∨ m = 4) ∧ ps.length = 6) →
      ((∃ v ∈ ps, v < 0 ∨ 255 < v) → encodePayload m ps = .error .range) ∧
      ((∀ v ∈ ps, 0 ≤ v ∧ v ≤ 255) → ∃ bs, encodePayload m ps = .ok bs ∧ bs.map (fun b => (b.toNat : Int)) = ps))

/-- R83: decoding the header of an encoded header and any payload gives them back, and the HEADER step on such a command
loads them. -/
def Obligations.HeaderRoundTrip : Prop :=
  ∀ (w h m : Int) (pl : List Byte), 0 ≤ w → w ≤ 65535 → 0 ≤ h → h ≤ 65535 → 0 ≤ m → m ≤ 255 →
    ∃ hd, encodeHeader w h m = .ok hd ∧
      ∃ (w' h' : Half) (m' : Byte), decodeHeader (hd ++ pl) = .ok (w', h', m', pl) ∧
        (w'.toNat : Int) = w ∧ (h'.toNat : Int) = h ∧ (m'.toNat : Int) = m ∧
        ∀ s : State, s.turns = [] → s.phase = .header → program s = hd ++ pl →
          step s = .next { s with width := w', height := h', mode := m', phase := .dispatch }

/-- R71: the assembler fails with `RangeError` exactly on an ill-formed source program, and with nothing else. -/
def Obligations.AssemblerFailsExactlyOutOfRange : Prop :=
  ∀ p : SourceProgram,
    (p.wf = true → ∃ bs, assemble p = .ok bs) ∧ (p.wf = false → assemble p = .error .range)

/-- R149 and R71: the assembled source of an instruction is its canonical encoding and then the trailing bytes, and
the encoding has `5 + REQ(mode)` bytes. -/
def Obligations.AssembledInstructionIsCanonical : Prop :=
  ∀ (i : Instr) (tr : List Byte),
    assemble ⟨i.source, tr.map fun b => (b.toNat : Int)⟩ = .ok (encode i ++ tr) ∧
      some (encode i).length = instrLen i.modeByte ∧ (encode i)[4]? = some i.modeByte

/-! ## The step and the instruction -/

/-- A step runs the decoded instruction: with no host turn pending, a step is `exec` of the instruction in flight; in
HEADER that is the instruction the command bytes decode to, in DISPATCH the one that the header registers and the
payload bytes decode to, and in SETUP and RENDER the one the operand registers hold. -/
def Obligations.StepRunsTheDecodedInstruction : Prop :=
  ∀ (s : State) (i : Instr), s.turns = [] →
    (∀ rest, s.phase = .header → decode (command s) = .ok (i, rest) → step s = exec i s) ∧
    (∀ rest, s.phase = .dispatch → decodeBody s.width s.height s.mode (payload s) = .ok (i, rest) → step s = exec i s) ∧
    (s.phase = .setup ∨ s.phase = .render → latchedInstr s = some i → step s = exec i s)

/-- A command placed by `withFetchWord` is the one the next step runs. -/
def Obligations.FetchWordRunsNext : Prop :=
  ∀ (s : State) (nbits w : Nat) (i : Instr), decodeTableWord nbits w = some i →
    step (s.withFetchWord nbits w) = exec i (s.withFetchWord nbits w) ∧ (s.withFetchWord nbits w).phase = .header ∧
      Cleared (s.withFetchWord nbits w)

/-- An engine turn is an engine step, whatever turns follow it (R7; the turns are log entry 3). -/
def Obligations.EngineTurnIsAnEngineStep : Prop :=
  ∀ (s : State) (ts : List Turn), s.turns = .engine :: ts →
    match step (setTurns [] s) with
    | .next t => step s = .next (setTurns ts t)
    | .fault f => step s = .fault f
    | .refused r => step s = .refused r

/-- The fetch, decode and execute of `step` is the phase machine of the spec's pseudocode (R81, R90 to R92, R94 to
R97), in every state. -/
def Obligations.StepIsThePhaseMachine : Prop := ∀ s : State, s.turns = [] → step s = phaseStep s

/-- The HEADER step of each instruction loads the three header registers and nothing else (R81). -/
def Obligations.ExecInHeaderLatchesTheHeader : Prop :=
  ∀ s : State, s.phase = .header →
    (∀ w h r g b, exec (.solid w h r g b) s =
      .next { s with width := w, height := h, mode := 1#8, phase := .dispatch }) ∧
    (∀ w h r1 g1 b1 r2 g2 b2, exec (.vgrad w h r1 g1 b1 r2 g2 b2) s =
      .next { s with width := w, height := h, mode := 2#8, phase := .dispatch }) ∧
    (∀ w h r1 g1 b1 r2 g2 b2, exec (.hgrad w h r1 g1 b1 r2 g2 b2) s =
      .next { s with width := w, height := h, mode := 3#8, phase := .dispatch }) ∧
    (∀ w h r1 g1 b1 r2 g2 b2, exec (.checker w h r1 g1 b1 r2 g2 b2) s =
      .next { s with width := w, height := h, mode := 4#8, phase := .dispatch })

/-- The DISPATCH step of each instruction loads `C1`, and `C2` unless the mode is 1, and nothing else (R92). -/
def Obligations.ExecInDispatchLatchesThePayload : Prop :=
  ∀ s : State, s.phase = .dispatch →
    (∀ w h r g b, exec (.solid w h r g b) s = .next { s with c1 := ⟨r, g, b⟩, phase := .setup }) ∧
    (∀ w h r1 g1 b1 r2 g2 b2, exec (.vgrad w h r1 g1 b1 r2 g2 b2) s =
      .next { s with c1 := ⟨r1, g1, b1⟩, c2 := ⟨r2, g2, b2⟩, phase := .setup }) ∧
    (∀ w h r1 g1 b1 r2 g2 b2, exec (.hgrad w h r1 g1 b1 r2 g2 b2) s =
      .next { s with c1 := ⟨r1, g1, b1⟩, c2 := ⟨r2, g2, b2⟩, phase := .setup }) ∧
    (∀ w h r1 g1 b1 r2 g2 b2, exec (.checker w h r1 g1 b1 r2 g2 b2) s =
      .next { s with c1 := ⟨r1, g1, b1⟩, c2 := ⟨r2, g2, b2⟩, phase := .setup })

/-- The SETUP step of every instruction applies the zero-dimension policy (R94); all four forms alike. -/
def Obligations.ExecInSetupAppliesTheZeroPolicy : Prop :=
  ∀ (i : Instr) (s : State), s.phase = .setup →
    (s.width ≠ 0#16 → s.height ≠ 0#16 → exec i s = .next { s with x := 0#16, y := 0#16, phase := .render }) ∧
    (s.width = 0#16 ∨ s.height = 0#16 → s.zdim = .emitEmpty → exec i s = .next { s with phase := .done }) ∧
    (s.width = 0#16 ∨ s.height = 0#16 → s.zdim = .reject →
      exec i s = .next { s with err := .emptyDimension, phase := .error })

/-- SOLID, R110 and R96: a RENDER step stores `C1` at the pixel and changes nothing else but the scan. -/
def Obligations.SolidRendersC1 : Prop :=
  ∀ (w h : Half) (r g b : Byte) (s : State), s.phase = .render →
    ∃ t, exec (.solid w h r g b) s = .next t ∧ Rendered s ⟨s.c1.r, s.c1.g, s.c1.b⟩ t

/-- VGRAD, R119, R115, R116 and R96: a RENDER step stores the interpolation of `C1` and `C2` at row `Y`, evaluated
exactly and rounded half away from zero, and changes nothing else but the scan. -/
def Obligations.VgradRendersTheRowColour : Prop :=
  ∀ (w h : Half) (r1 g1 b1 r2 g2 b2 : Byte) (s : State), s.phase = .render →
    ∃ t, exec (.vgrad w h r1 g1 b1 r2 g2 b2) s = .next t ∧
      Rendered s ⟨interpExact s.c1.r s.c2.r s.y.toNat (s.height.toNat - 1),
        interpExact s.c1.g s.c2.g s.y.toNat (s.height.toNat - 1),
        interpExact s.c1.b s.c2.b s.y.toNat (s.height.toNat - 1)⟩ t

/-- HGRAD, R120, R115, R116 and R96: the same along the column `X`. -/
def Obligations.HgradRendersTheColumnColour : Prop :=
  ∀ (w h : Half) (r1 g1 b1 r2 g2 b2 : Byte) (s : State), s.phase = .render →
    ∃ t, exec (.hgrad w h r1 g1 b1 r2 g2 b2) s = .next t ∧
      Rendered s ⟨interpExact s.c1.r s.c2.r s.x.toNat (s.width.toNat - 1),
        interpExact s.c1.g s.c2.g s.x.toNat (s.width.toNat - 1),
        interpExact s.c1.b s.c2.b s.x.toNat (s.width.toNat - 1)⟩ t

/-- CHECKER, R135, R137 and R96: a RENDER step stores `C1` where bit 3 of `X` equals bit 3 of `Y`, else `C2`, and
changes nothing else but the scan. -/
def Obligations.CheckerRendersByBitThree : Prop :=
  ∀ (w h : Half) (r1 g1 b1 r2 g2 b2 : Byte) (s : State), s.phase = .render →
    ∃ t, exec (.checker w h r1 g1 b1 r2 g2 b2) s = .next t ∧
      Rendered s (if s.x.getLsbD 3 = s.y.getLsbD 3 then s.c1 else s.c2) t

/-- A halted engine has no step: no instruction changes anything (R17; that the model then stays in the same state is
log entry 4). -/
def Obligations.HaltedEngineStaysAsItIs : Prop :=
  ∀ s : State, s.phase = .idle ∨ s.phase = .done ∨ s.phase = .error →
    (s.turns = [] → step s = .next s) ∧ ∀ i : Instr, exec i s = .next s

/-! ## 40_header_decode.md, 41_dispatch_and_scan.md, 60_exceptions.md: the engine steps and the traps -/

/-- R81: the HEADER step. -/
def Obligations.HeaderStepLoadsOrTraps : Prop :=
  ∀ s : State, s.turns = [] → s.phase = .header →
    (s.len < 5 → step s = .next { s with err := .truncatedHeader, phase := .error }) ∧
    (5 ≤ s.len →
      ∃ w h : Half, w.toNat = (cmdByte s 0).toNat * 256 + (cmdByte s 1).toNat ∧
        h.toNat = (cmdByte s 2).toNat * 256 + (cmdByte s 3).toNat ∧
        step s = .next { s with width := w, height := h, mode := cmdByte s 4, phase := .dispatch })

/-- R90, R91, R92: the DISPATCH step. The mode check comes first, whatever the length and the dimensions; a valid mode
with too few bytes traps before any payload byte is read; else the payload is loaded. -/
def Obligations.DispatchStepChecksThenLoads : Prop :=
  ∀ s : State, s.turns = [] → s.phase = .dispatch →
    (s.mode.toNat ∉ [1, 2, 3, 4] → step s = .next { s with err := .unknownMode, phase := .error }) ∧
    ((s.mode = 1#8 ∧ s.len < 8) ∨ ((s.mode = 2#8 ∨ s.mode = 3#8 ∨ s.mode = 4#8) ∧ s.len < 11) →
      step s = .next { s with err := .payloadTooShort, phase := .error }) ∧
    (s.mode = 1#8 → 8 ≤ s.len →
      step s = .next { s with c1 := ⟨cmdByte s 5, cmdByte s 6, cmdByte s 7⟩, phase := .setup }) ∧
    ((s.mode = 2#8 ∨ s.mode = 3#8 ∨ s.mode = 4#8) → 11 ≤ s.len →
      step s = .next { s with c1 := ⟨cmdByte s 5, cmdByte s 6, cmdByte s 7⟩,
                              c2 := ⟨cmdByte s 8, cmdByte s 9, cmdByte s 10⟩, phase := .setup })

/-- R94: the SETUP step, whatever the instruction. -/
def Obligations.SetupStepAppliesTheZeroPolicy : Prop :=
  ∀ s : State, s.turns = [] → s.phase = .setup →
    ((s.width = 0#16 ∨ s.height = 0#16) → s.zdim = .reject →
      step s = .next { s with err := .emptyDimension, phase := .error }) ∧
    ((s.width = 0#16 ∨ s.height = 0#16) → s.zdim = .emitEmpty → step s = .next { s with phase := .done }) ∧
    (s.width ≠ 0#16 → s.height ≠ 0#16 → step s = .next { s with x := 0#16, y := 0#16, phase := .render })

/-- R167: an engine step that enters `ERROR` changes `ERR` and `PHASE` and nothing else, and the code it writes is one
of the four kinds the engine raises (R160, R164). -/
def Obligations.TrapEntryChangesOnlyErrAndPhase : Prop :=
  ∀ s t : State, s.turns = [] → step s = .next t → s.phase ≠ .error → t.phase = .error →
    t = { s with err := t.err, phase := .error } ∧
      t.err ∈ [.truncatedHeader, .payloadTooShort, .unknownMode, .emptyDimension] ∧
      (s.phase = .header ∨ s.phase = .dispatch ∨ s.phase = .setup)

/-- R168: a trap leaves no partial output. -/
def Obligations.TrapLeavesNoPixels : Prop :=
  ∀ s t : State, Inv s → step s = .next t → t.phase = .error → ∀ i, Memory.read t.pix i = none

/-- R170 (and R190): `ERROR` is left by START, RESET and hardware reset, and in no other way. -/
def Obligations.OnlyStartOrResetLeavesError : Prop :=
  ∀ s t : State, s.phase = .error → step s = .next t → t.phase ≠ .error →
    (∃ v ts, s.turns = .host (.writeReg 0 v) :: ts ∧
      ((v / 2 % 2 = 1 ∧ t.phase = .idle) ∨ (v / 2 % 2 = 0 ∧ v % 2 = 1 ∧ t.phase = .header)) ∧ t.err = .noError) ∨
    (∃ ts, s.turns = .host .hardwareReset :: ts ∧ t.phase = .idle)

/-- R166: which outcome a command has that meets several error conditions: the first of truncation, unknown mode,
short payload, zero dimension. -/
def Obligations.ErrorPriorityOfAWholeRun : Prop :=
  ∀ (bs : List Byte) (z : ZeroPolicy),
    (bs.length < 5 → wholeRun bs z = .error .truncatedHeader) ∧
    (5 ≤ bs.length → reqLen (byteAt bs 4) = none → wholeRun bs z = .error .unknownMode) ∧
    (∀ n, 5 ≤ bs.length → reqLen (byteAt bs 4) = some n → bs.length < 5 + n →
      wholeRun bs z = .error .payloadTooShort) ∧
    (∀ n, reqLen (byteAt bs 4) = some n → 5 + n ≤ bs.length →
      (byteAt bs 0 = 0#8 ∧ byteAt bs 1 = 0#8 ∨ byteAt bs 2 = 0#8 ∧ byteAt bs 3 = 0#8) →
      (z = .reject → wholeRun bs z = .error .emptyDimension) ∧
      (z = .emitEmpty → ∃ w h, wholeRun bs z = .ok ⟨w, h, []⟩ ∧ (w = 0 ∨ h = 0)))

/-- R196: a RENDER step records its beat. -/
def Obligations.EveryBeatIsRecorded : Prop :=
  ∀ (s : State) (b : Beat), s.turns = [] → beat s = some b →
    b.index = s.y.toNat * s.width.toNat + s.x.toNat ∧ b.x = s.x ∧ b.y = s.y ∧
      colourAt s s.x.toNat s.y.toNat = some b.colour ∧ ∃ t, step s = .next t ∧ Rendered s b.colour t

/-! ## 43_gradients.md, 44_checkerboard.md: the arithmetic -/

/-- R116, with R117's rounding: the three forms agree. `interp` is the exact rational value rounded half away from zero
and clamped, for all operands; for admissible ones it is the integer quotient without the clamp; and the quotient and
remainder form. -/
def Obligations.InterpIsExactAndRoundsHalfAway : Prop :=
  (∀ (s e : Byte) (p n : Nat), interp s e p n = interpExact s e p n) ∧
    (∀ (s e : Byte) (p : Nat), interp s e p 0 = s) ∧
    (∀ (s e : Byte) (p n : Nat), 0 < n → p ≤ n →
      ((interp s e p n).toNat : Int) = (2 * interpNum s e p n + n) / (2 * n)) ∧
    ∀ (s e : Byte) (p n q r : Nat), 0 < n → p ≤ n → interpNum s e p n = ((q * n + r : Nat) : Int) → r < n →
      (interp s e p n).toNat = if n ≤ 2 * r then q + 1 else q

/-- R118: zero denominator, so an image of one row (VGRAD) or of one column (HGRAD) is `C1`; and R122: the endpoints. -/
def Obligations.InterpZeroDenominatorAndEndpoints : Prop :=
  (∀ (s e : Byte) (p : Nat), interp s e p 0 = s) ∧
    (∀ (c1 c2 : Colour) (p : Nat), vgradColour c1 c2 1 p = c1 ∧ hgradColour c1 c2 1 p = c1) ∧
    ∀ (s e : Byte) (n : Nat), 1 ≤ n → interp s e 0 n = s ∧ interp s e n n = e

/-- R123: monotone in the position. -/
def Obligations.InterpIsMonotone : Prop :=
  ∀ (s e : Byte) (p p' n : Nat), 1 ≤ n → p ≤ p' → p' ≤ n →
    (s.toNat ≤ e.toNat → (interp s e p n).toNat ≤ (interp s e p' n).toNat) ∧
    (e.toNat ≤ s.toNat → (interp s e p' n).toNat ≤ (interp s e p n).toNat)

/-- R124: between start and end; the numerator lies between the ends times `n`, and the clamp is never active. -/
def Obligations.InterpStaysBetweenItsEnds : Prop :=
  ∀ (s e : Byte) (p n : Nat), p ≤ n →
    min s.toNat e.toNat ≤ (interp s e p n).toNat ∧ (interp s e p n).toNat ≤ max s.toNat e.toNat ∧
      (min s.toNat e.toNat : Int) * n ≤ interpNum s e p n ∧ interpNum s e p n ≤ (max s.toNat e.toNat : Int) * n ∧
      0 ≤ interpNum s e p n ∧ interpNum s e p n ≤ 255 * n ∧
      (0 < n → clamp255 ((2 * interpNum s e p n + n) / (2 * n)) = (2 * interpNum s e p n + n) / (2 * n))

/-- R126: constant channel and mirror symmetry, so swapping `C1` and `C2` mirrors the gradient. -/
def Obligations.InterpConstantAndMirror : Prop :=
  (∀ (s : Byte) (p n : Nat), interp s s p n = s) ∧
    (∀ (s e : Byte) (p n : Nat), 1 ≤ n → p ≤ n → interp s e p n = interp e s (n - p) n) ∧
    ∀ (c1 c2 : Colour) (m p : Nat), 2 ≤ m → p < m →
      vgradColour c1 c2 m p = vgradColour c2 c1 m (m - 1 - p) ∧ hgradColour c1 c2 m p = hgradColour c2 c1 m (m - 1 - p)

/-- R121: the ranges of the datapath's quantities, and that computing each at its width loses nothing. -/
def Obligations.InterpDatapathWidths : Prop :=
  ∀ (s e : Byte) (p n : Nat), 1 ≤ n → n ≤ 65534 → p ≤ n →
    -255 ≤ (e.toNat : Int) - s.toNat ∧ (e.toNat : Int) - s.toNat ≤ 255 ∧
      s.toNat * n ≤ 16711170 ∧
      -16711170 ≤ ((e.toNat : Int) - s.toNat) * p ∧ ((e.toNat : Int) - s.toNat) * p ≤ 16711170 ∧
      0 ≤ interpNum s e p n ∧ interpNum s e p n ≤ 255 * n ∧ (255 : Int) * n ≤ 16711170 ∧
      0 ≤ 2 * interpNum s e p n + n ∧ 2 * interpNum s e p n + n ≤ 33487874 ∧ 2 ≤ 2 * n ∧ 2 * n ≤ 131068 ∧
      0 ≤ (2 * interpNum s e p n + n) / (2 * n) ∧ (2 * interpNum s e p n + n) / (2 * n) ≤ 255 ∧
      interpDatapath s e (BitVec.ofNat 16 p) (BitVec.ofNat 16 n) = interp s e p n

/-! ## 70_reset_and_hazards.md: the host -/

/-- R80, R194: START. -/
def Obligations.StartClearsAndBegins : Prop :=
  ∀ (s : State) (ts : List Turn) (v : Nat), s.turns = .host (.writeReg 0 v) :: ts → v % 2 = 1 → v / 2 % 2 = 0 →
    (busyFlag s = true → step s = .next (setTurns ts s)) ∧
    (busyFlag s = false → ∃ t, step s = .next t ∧ Cleared t ∧ t.err = .noError ∧ t.phase = .header ∧
      t.cmd = s.cmd ∧ t.len = s.len ∧ t.zdim = s.zdim ∧ t.turns = ts ∧
      busyFlag t = true ∧ doneFlag t = false ∧ errorFlag t = false)

/-- R191, R22: RESET, in every phase; it wins over START; writing 0 to both strobes does nothing. -/
def Obligations.ResetCommandReturnsToIdle : Prop :=
  ∀ (s : State) (ts : List Turn) (v : Nat), s.turns = .host (.writeReg 0 v) :: ts →
    (v / 2 % 2 = 1 → ∃ t, step s = .next t ∧ Cleared t ∧ t.err = .noError ∧ t.phase = .idle ∧
      t.cmd = s.cmd ∧ t.len = s.len ∧ t.zdim = s.zdim ∧ t.turns = ts) ∧
    (v / 2 % 2 = 0 → v % 2 = 0 → step s = .next (setTurns ts s))

/-- R193: writes to `CFG`, `LEN` and `CMD` while busy are ignored. -/
def Obligations.BusyHostWritesAreIgnored : Prop :=
  ∀ (s : State) (ts : List Turn), busyFlag s = true →
    (∀ n v, 1 ≤ n → s.turns = .host (.writeReg n v) :: ts → step s = .next (setTurns ts s)) ∧
    (∀ i b, s.turns = .host (.writeCmd i b) :: ts → step s = .next (setTurns ts s))

/-- R199, R195: what host reads of the spaces return, and that they change nothing else (R47). Outside the two cases
the value is a free one (log entries 7, 8). -/
def Obligations.HostReadsOfTheSpaces : Prop :=
  ∀ (s : State) (ts : List Turn) (i : Nat),
    (s.turns = .host (.readPix i) :: ts →
      ∃ c, step s = .next (setReply (.pixel c) (setTurns ts s)) ∧
        ∀ c', s.phase = .done → i < s.width.toNat * s.height.toNat → Memory.read s.pix i = some c' → c = c') ∧
    (s.turns = .host (.readCmd i) :: ts →
      ∃ b, step s = .next (setReply (.byte b) (setTurns ts s)) ∧
        ∀ b', i < s.len → Memory.read s.cmd i = some b' → b = b')

/-- R199, R172: apart from START, RESET and hardware reset no host action reaches the engine (registers, `PHASE`, `ERR`
and `PIX` stay); and while it is busy no host action but RESET and hardware reset reaches it or its inputs. -/
def Obligations.HostReachesTheEngineOnlyByStrobes : Prop :=
  ∀ (s : State) (a : HostAction) (ts : List Turn), s.turns = .host a :: ts → a ≠ .hardwareReset →
    ((∀ v, a ≠ .writeReg 0 v) → ∃ t, step s = .next t ∧ SameEngine s t) ∧
    (busyFlag s = true → (∀ v, v / 2 % 2 = 1 → a ≠ .writeReg 0 v) →
      ∃ t, step s = .next t ∧ SameEngine s t ∧ t.cmd = s.cmd ∧ t.len = s.len ∧ t.zdim = s.zdim)

/-! ## The whole machine -/

/-- R99: the result at `DONE`, of every good state: `PIX` holds exactly the indices of the image, each with its colour. -/
def Obligations.DoneImageHoldsEveryPixel : Prop :=
  ∀ s : State, Inv s → s.phase = .done →
    s.err = .noError ∧
    (∀ x y : Nat, x < s.width.toNat → y < s.height.toNat →
      ∃ c, colourAt s x y = some c ∧ Memory.read s.pix (y * s.width.toNat + x) = some c) ∧
    (∀ i, s.width.toNat * s.height.toNat ≤ i → Memory.read s.pix i = none)

/-- The invariant at reset. -/
def Obligations.ResetMeetsTheInvariant : Prop := Inv State.reset

/-- Every step keeps the invariant: canonical memories, `ERR ≠ 0` exactly at `ERROR`, and what each phase promises, the
raster order of `PIX` among it (R18, R20, R46, R99, R168). -/
def Obligations.EveryStepKeepsTheInvariant : Prop := ∀ s t : State, Inv s → step s = .next t → Inv t

/-- From a good state no run ever stops: the one fault is unreachable and nothing is refused (R49, R95, R160). -/
def Obligations.GoodStatesRunOn : Prop := ∀ s : State, Inv s → RunsOn s

/-- R98, R99, R100: from START on, the engine runs exactly `runSteps` steps, is busy before the last, and then owes
the host exactly the whole-run function of the command bytes and the policy. -/
def Obligations.RunIsTheWholeRunFunction : Prop :=
  ∀ s : State, s.turns = [] →
    (∀ k, k < runSteps (program s) →
      ∃ u : State, runFor k (beginRun s) = .next u ∧ busyFlag u = true) ∧
    ∃ t : State, runFor (runSteps (program s)) (beginRun s) = .next t ∧
      runResult t = some (wholeRun (program s) s.zdim)

/-- R192: from hardware reset, the host's sequence for any file and policy leads to the result of R100. -/
def Obligations.BootSequenceGivesTheResult : Prop :=
  ∀ (bs : List Byte) (z : ZeroPolicy),
    ∃ t : State, runFor ((bootScript bs z).length + runSteps bs)
        (setTurns (bootScript bs z) State.reset) = .next t ∧
      runResult t = some (wholeRun bs z)

/-- R2: nothing of an earlier run influences a later one: two machines in any two states with the same inputs, started,
go through the same engine states. -/
def Obligations.RunsDependOnTheirInputsOnly : Prop :=
  ∀ s s' : State, s.turns = [] → s'.turns = [] → SameInputs s s' →
    ∀ k, ∃ t t' : State, runFor k (beginRun s) = .next t ∧
      runFor k (beginRun s') = .next t' ∧ SameEngine t t'

/-- R93: two commands that agree on their first `5 + REQ` bytes and are both at least that long run identically,
whatever follows. -/
def Obligations.TrailingBytesDoNotMatter : Prop :=
  ∀ (s s' : State) (bs rest rest' : List Byte) (n : Nat), s.turns = [] → s'.turns = [] →
    reqLen (byteAt bs 4) = some n → bs.length = 5 + n → program s = bs ++ rest → program s' = bs ++ rest' →
    s.zdim = s'.zdim →
    ∀ k, ∃ t t' : State, runFor k (beginRun s) = .next t ∧
      runFor k (beginRun s') = .next t' ∧ SameEngine t t'

/-- R150: two steps after START on an encoded instruction, with or without trailing bytes, its operands are in the
registers, and no trap was taken. -/
def Obligations.EncodedFileLoadsItsOperands : Prop :=
  ∀ (s : State) (i : Instr) (rest : List Byte), s.turns = [] → program s = encode i ++ rest →
    ∃ t : State, runFor 2 (beginRun s) = .next t ∧ t.phase = .setup ∧ t.err = .noError ∧
      t.width = i.widthField ∧ t.height = i.heightField ∧ t.mode = i.modeByte ∧
      [t.c1.r, t.c1.g, t.c1.b] = i.payloadBytes.take 3 ∧
      (t.mode = 1#8 → t.c2 = Colour.zero) ∧ (t.mode ≠ 1#8 → [t.c2.r, t.c2.g, t.c2.b] = i.payloadBytes.drop 3)
end

