-- ==== Sys2Proof/Laws/Arith.lean ====
section
/-! SUPPORT. Bounds of the interpolation and the narrowing of its result. -/

namespace Sys2Proof.Machine

/-- The numerator lies between the two ends times the denominator. -/
theorem interpNum_bounds (s e : Byte) (p n : Nat) (h : p ≤ n) :
    (min s.toNat e.toNat : Int) * n ≤ interpNum s e p n ∧ interpNum s e p n ≤ (max s.toNat e.toNat : Int) * n := by
  unfold interpNum
  have hp : (p : Int) ≤ n := by exact_mod_cast h
  have hp0 : (0 : Int) ≤ p := by positivity
  rcases le_total s.toNat e.toNat with h1 | h1
  · have h1' : (s.toNat : Int) ≤ e.toNat := by exact_mod_cast h1
    rw [min_eq_left h1', max_eq_right h1']
    constructor <;> nlinarith
  · have h1' : (e.toNat : Int) ≤ s.toNat := by exact_mod_cast h1
    rw [min_eq_right h1', max_eq_left h1']
    constructor <;> nlinarith

/-- Rounding to nearest stays between integer bounds. -/
theorem rounded_bounds {a b x n : Int} (hn : 0 < n) (h1 : a * n ≤ x) (h2 : x ≤ b * n) :
    a ≤ (2 * x + n) / (2 * n) ∧ (2 * x + n) / (2 * n) ≤ b := by
  constructor
  · apply Int.le_ediv_of_mul_le (by omega); nlinarith
  · apply Int.le_of_lt_add_one; apply Int.ediv_lt_of_lt_mul (by omega); nlinarith

theorem clamp255_of_range {v : Int} (h0 : 0 ≤ v) (h1 : v ≤ 255) : clamp255 v = v := by
  unfold clamp255; split <;> [omega; (split <;> [omega; rfl])]

theorem channel_toNat {v : Int} (h0 : 0 ≤ v) (h1 : v ≤ 255) : ((channel v).toNat : Int) = v := by
  simp only [channel, BitVec.toNat_ofInt]; omega

/-- For a positive denominator the result is the rounded quotient itself, between the two ends. -/
theorem interp_toNat (s e : Byte) (p n : Nat) (hn : 0 < n) (h : p ≤ n) :
    ((interp s e p n).toNat : Int) = (2 * interpNum s e p n + n) / (2 * n) ∧
    (min s.toNat e.toNat : Int) ≤ (2 * interpNum s e p n + n) / (2 * n) ∧ (2 * interpNum s e p n + n) / (2 * n) ≤ (max s.toNat e.toNat : Int) := by
  have hb := interpNum_bounds s e p n h
  have hd := rounded_bounds (by exact_mod_cast hn) hb.1 hb.2
  have h1 := s.isLt; have h2 := e.isLt
  have h0 : 0 ≤ (2 * interpNum s e p n + n) / (2 * n : Int) := by omega
  have h255 : (2 * interpNum s e p n + n) / (2 * n : Int) ≤ 255 := by omega
  refine ⟨?_, hd⟩
  rw [interp, if_neg (by omega), clamp255_of_range h0 h255, channel_toNat h0 h255]

end Sys2Proof.Machine
end

