-- ==== Sys2Proof/Laws/Decode.lean ====
section
/-! SUPPORT. Small lemmas of the decoder: byte assembly, and what each part accepts. -/

namespace Sys2Proof

/-- A big-endian pair of bytes as a number (R43). -/
theorem bigEndian_toNat (hi lo : Byte) : (bigEndian hi lo).toNat = hi.toNat * 256 + lo.toNat := by
  have h := lo.isLt
  simp only [bigEndian, BitVec.toNat_append]
  rw [Nat.shiftLeft_eq, Nat.mul_comm, ← Nat.two_pow_add_eq_or_of_lt h]

/-- The two bytes of a 16-bit field give it back. -/
theorem bigEndian_extract (v : Half) : bigEndian (v.extractLsb' 8 8) (v.extractLsb' 0 8) = v := by
  apply BitVec.eq_of_toNat_eq
  rw [bigEndian_toNat]
  have := v.isLt
  simp only [BitVec.extractLsb'_toNat, Nat.shiftRight_eq_div_pow]
  omega

/-- Taking apart an assembled pair: its high byte. -/
theorem extract_hi_bigEndian (hi lo : Byte) : (bigEndian hi lo).extractLsb' 8 8 = hi := by
  apply BitVec.eq_of_toNat_eq
  have h1 := hi.isLt
  have h2 := lo.isLt
  simp only [BitVec.extractLsb'_toNat, Nat.shiftRight_eq_div_pow, bigEndian_toNat]
  omega

/-- Taking apart an assembled pair: its low byte. -/
theorem extract_lo_bigEndian (hi lo : Byte) : (bigEndian hi lo).extractLsb' 0 8 = lo := by
  apply BitVec.eq_of_toNat_eq
  have h1 := hi.isLt
  have h2 := lo.isLt
  simp only [BitVec.extractLsb'_toNat, Nat.shiftRight_eq_div_pow, bigEndian_toNat]
  omega

/-- A mode byte has a required length exactly when it is 1, 2, 3 or 4 (R66). -/
theorem reqLen_cases (m : Byte) :
    (m = 1#8 ∧ reqLen m = some 3) ∨ ((m = 2#8 ∨ m = 3#8 ∨ m = 4#8) ∧ reqLen m = some 6) ∨
    ((m ≠ 1#8 ∧ m ≠ 2#8 ∧ m ≠ 3#8 ∧ m ≠ 4#8) ∧ reqLen m = none) := by
  unfold reqLen
  by_cases h1 : m = 1#8
  · simp [h1]
  · by_cases h2 : m = 2#8 ∨ m = 3#8 ∨ m = 4#8
    · simp [h1, h2]
    · simp only [not_or] at h2
      simp [h1, h2]

/-- The header splits off the first five bytes, or there are fewer. -/
theorem decodeHeader_cases (bs : List Byte) :
    (∃ a b c d m rest, bs = a :: b :: c :: d :: m :: rest ∧
      decodeHeader bs = .ok (bigEndian a b, bigEndian c d, m, rest)) ∨
    (bs.length < 5 ∧ decodeHeader bs = .error .truncatedHeader) := by
  unfold decodeHeader
  split
  · exact .inl ⟨_, _, _, _, _, _, rfl, rfl⟩
  · rename_i h
    refine .inr ⟨?_, rfl⟩
    rcases bs with _ | ⟨a, _ | ⟨b, _ | ⟨c, _ | ⟨d, _ | ⟨m, rest⟩⟩⟩⟩⟩ <;> simp
    exact absurd rfl (h a b c d m rest)

/-- Format S takes three bytes, or there are fewer. -/
theorem decodeTriple_cases (mk : Byte → Byte → Byte → Instr) (bs : List Byte) :
    (∃ r g b rest, bs = r :: g :: b :: rest ∧ decodeTriple mk bs = .ok (mk r g b, rest)) ∨
    (bs.length < 3 ∧ decodeTriple mk bs = .error .payloadTooShort) := by
  rcases bs with _ | ⟨r, _ | ⟨g, _ | ⟨b, rest⟩⟩⟩
  · exact .inr ⟨by simp, rfl⟩
  · exact .inr ⟨by simp, rfl⟩
  · exact .inr ⟨by simp, rfl⟩
  · exact .inl ⟨r, g, b, rest, rfl, rfl⟩

/-- Format P takes six bytes, or there are fewer. -/
theorem decodePair_cases (mk : Byte → Byte → Byte → Byte → Byte → Byte → Instr) (bs : List Byte) :
    (∃ a b c d e f rest, bs = a :: b :: c :: d :: e :: f :: rest ∧ decodePair mk bs = .ok (mk a b c d e f, rest)) ∨
    (bs.length < 6 ∧ decodePair mk bs = .error .payloadTooShort) := by
  unfold decodePair
  split
  · exact .inl ⟨_, _, _, _, _, _, _, rfl, rfl⟩
  · rename_i h
    refine .inr ⟨?_, rfl⟩
    rcases bs with _ | ⟨a, _ | ⟨b, _ | ⟨c, _ | ⟨d, _ | ⟨e, _ | ⟨f, rest⟩⟩⟩⟩⟩⟩ <;> simp
    exact absurd rfl (h a b c d e f rest)

end Sys2Proof
end

