-- ==== Sys2Proof/Laws/Memory.lean ====
section
/-! SUPPORT. The laws of the two memory spaces: read after write, and that every operation keeps the canonical form. -/

namespace Sys2Proof.Machine

variable {α : Type}

@[simp] theorem Memory.read_nil (a : Nat) : Memory.read ([] : Memory α) a = none := rfl

/-- A read of the address just written gives the value written. -/
theorem Memory.read_write_self (m : Memory α) (a : Nat) (v : α) : Memory.read (Memory.write m a v) a = some v := by
  induction m with
  | nil => simp [Memory.write, Memory.read]
  | cons p m ih =>
    obtain ⟨b, u⟩ := p
    unfold Memory.write
    split
    · simp [Memory.read]
    · split
      · simp [Memory.read]
      · rename_i h; simp [Memory.read, h, ih]

/-- A write leaves every other address alone. -/
theorem Memory.read_write_of_ne (m : Memory α) {a c : Nat} (v : α) (h : c ≠ a) :
    Memory.read (Memory.write m a v) c = Memory.read m c := by
  induction m with
  | nil => simp [Memory.write, Memory.read, h]
  | cons p m ih =>
    obtain ⟨b, u⟩ := p
    unfold Memory.write
    split
    · simp [Memory.read, h]
    · split
      · rename_i hb; subst hb; simp [Memory.read, h]
      · simp [Memory.read, ih]

/-- The addresses listed after a write. -/
theorem Memory.mem_addrs_write (m : Memory α) (a : Nat) (v : α) (c : Nat) :
    c ∈ (Memory.write m a v).map Prod.fst ↔ c = a ∨ c ∈ m.map Prod.fst := by
  induction m with
  | nil => simp [Memory.write]
  | cons p m ih =>
    obtain ⟨b, u⟩ := p
    unfold Memory.write
    split
    · simp
    · split
      · rename_i hb; subst hb; simp
      · simp only [List.map_cons, List.mem_cons, ih]; tauto

theorem Memory.wf_nil : Memory.wf ([] : Memory α) := List.Pairwise.nil

/-- A write keeps the canonical form. -/
theorem Memory.wf_write {m : Memory α} (h : Memory.wf m) (a : Nat) (v : α) : Memory.wf (Memory.write m a v) := by
  induction m with
  | nil => simp [Memory.write, Memory.wf]
  | cons p m ih =>
    obtain ⟨b, u⟩ := p
    have hp : (∀ c ∈ m.map Prod.fst, b < c) ∧ Memory.wf m := List.pairwise_cons.mp h
    unfold Memory.write
    split
    · rename_i hab
      refine List.pairwise_cons.mpr ⟨fun c hc => ?_, h⟩
      rcases List.mem_cons.mp hc with rfl | hc
      · exact hab
      · exact hab.trans (hp.1 c hc)
    · split
      · rename_i hab; subst hab; exact List.pairwise_cons.mpr hp
      · refine List.pairwise_cons.mpr ⟨fun c hc => ?_, ih hp.2⟩
        rcases (Memory.mem_addrs_write m a v c).mp hc with rfl | hc
        · exact lt_of_le_of_ne (by omega) (by omega)
        · exact hp.1 c hc

/-- Storing a list of bytes keeps the canonical form. -/
theorem wf_storeCmd (bs : List Byte) (a : Nat) {m : Memory Byte} (h : Memory.wf m) : Memory.wf (storeCmd bs a m) := by
  induction bs generalizing a m with
  | nil => exact h
  | cons b bs ih => exact ih (a + 1) (Memory.wf_write h a b)

/-- What a list of stored bytes reads as. -/
theorem read_storeCmd (bs : List Byte) (a : Nat) (m : Memory Byte) (c : Nat) :
    Memory.read (storeCmd bs a m) c = if a ≤ c ∧ c < a + bs.length then bs[c - a]? else Memory.read m c := by
  induction bs generalizing a m with
  | nil => simp [storeCmd]
  | cons b bs ih =>
    simp only [storeCmd, ih, List.length_cons]
    by_cases h1 : c = a
    · subst h1; simp [Memory.read_write_self]
    · by_cases h2 : a + 1 ≤ c ∧ c < a + 1 + bs.length
      · have h3 : a ≤ c ∧ c < a + (bs.length + 1) := by omega
        have h4 : c - a = (c - (a + 1)) + 1 := by omega
        simp [h2, h3, h4]
      · have h3 : ¬ (a ≤ c ∧ c < a + (bs.length + 1)) := by omega
        rw [if_neg h2, if_neg h3, Memory.read_write_of_ne _ _ h1]

/-- An address that is not listed holds no value. -/
theorem Memory.read_of_not_mem {m : Memory α} {a : Nat} (h : a ∉ m.map Prod.fst) : Memory.read m a = none := by
  induction m with
  | nil => rfl
  | cons p m ih =>
    obtain ⟨b, u⟩ := p
    simp only [List.map_cons, List.mem_cons, not_or] at h
    simp [Memory.read, h.1, ih h.2]

end Sys2Proof.Machine
end

