-- ==== Sys2Proof/Laws/State.lean ====
section
/-! SUPPORT. One lemma per field per update of the state, each true by rfl, so that no proof unfolds an update. -/

namespace Sys2Proof.Machine

variable (s : State)

@[simp] theorem trapEntry_width (k : ErrKind) : (trapEntry k s).width = s.width := rfl
@[simp] theorem trapEntry_height (k : ErrKind) : (trapEntry k s).height = s.height := rfl
@[simp] theorem trapEntry_mode (k : ErrKind) : (trapEntry k s).mode = s.mode := rfl
@[simp] theorem trapEntry_c1 (k : ErrKind) : (trapEntry k s).c1 = s.c1 := rfl
@[simp] theorem trapEntry_c2 (k : ErrKind) : (trapEntry k s).c2 = s.c2 := rfl
@[simp] theorem trapEntry_x (k : ErrKind) : (trapEntry k s).x = s.x := rfl
@[simp] theorem trapEntry_y (k : ErrKind) : (trapEntry k s).y = s.y := rfl
@[simp] theorem trapEntry_phase (k : ErrKind) : (trapEntry k s).phase = .error := rfl
@[simp] theorem trapEntry_err (k : ErrKind) : (trapEntry k s).err = k := rfl
@[simp] theorem trapEntry_zdim (k : ErrKind) : (trapEntry k s).zdim = s.zdim := rfl
@[simp] theorem trapEntry_len (k : ErrKind) : (trapEntry k s).len = s.len := rfl
@[simp] theorem trapEntry_cmd (k : ErrKind) : (trapEntry k s).cmd = s.cmd := rfl
@[simp] theorem trapEntry_pix (k : ErrKind) : (trapEntry k s).pix = s.pix := rfl
@[simp] theorem trapEntry_turns (k : ErrKind) : (trapEntry k s).turns = s.turns := rfl
@[simp] theorem trapEntry_reply (k : ErrKind) : (trapEntry k s).reply = s.reply := rfl
@[simp] theorem trapEntry_cmdEpoch (k : ErrKind) : (trapEntry k s).cmdEpoch = s.cmdEpoch := rfl
@[simp] theorem trapEntry_pixEpoch (k : ErrKind) : (trapEntry k s).pixEpoch = s.pixEpoch := rfl

@[simp] theorem clearEngine_width : (clearEngine s).width = 0#16 := rfl
@[simp] theorem clearEngine_height : (clearEngine s).height = 0#16 := rfl
@[simp] theorem clearEngine_mode : (clearEngine s).mode = 0#8 := rfl
@[simp] theorem clearEngine_c1 : (clearEngine s).c1 = Colour.zero := rfl
@[simp] theorem clearEngine_c2 : (clearEngine s).c2 = Colour.zero := rfl
@[simp] theorem clearEngine_x : (clearEngine s).x = 0#16 := rfl
@[simp] theorem clearEngine_y : (clearEngine s).y = 0#16 := rfl
@[simp] theorem clearEngine_phase : (clearEngine s).phase = s.phase := rfl
@[simp] theorem clearEngine_err : (clearEngine s).err = .noError := rfl
@[simp] theorem clearEngine_zdim : (clearEngine s).zdim = s.zdim := rfl
@[simp] theorem clearEngine_len : (clearEngine s).len = s.len := rfl
@[simp] theorem clearEngine_cmd : (clearEngine s).cmd = s.cmd := rfl
@[simp] theorem clearEngine_pix : (clearEngine s).pix = [] := rfl
@[simp] theorem clearEngine_turns : (clearEngine s).turns = s.turns := rfl
@[simp] theorem clearEngine_reply : (clearEngine s).reply = s.reply := rfl
@[simp] theorem clearEngine_cmdEpoch : (clearEngine s).cmdEpoch = s.cmdEpoch := rfl
@[simp] theorem clearEngine_pixEpoch : (clearEngine s).pixEpoch = s.pixEpoch + 1 := rfl

@[simp] theorem beginRun_width : (beginRun s).width = 0#16 := rfl
@[simp] theorem beginRun_height : (beginRun s).height = 0#16 := rfl
@[simp] theorem beginRun_mode : (beginRun s).mode = 0#8 := rfl
@[simp] theorem beginRun_c1 : (beginRun s).c1 = Colour.zero := rfl
@[simp] theorem beginRun_c2 : (beginRun s).c2 = Colour.zero := rfl
@[simp] theorem beginRun_x : (beginRun s).x = 0#16 := rfl
@[simp] theorem beginRun_y : (beginRun s).y = 0#16 := rfl
@[simp] theorem beginRun_phase : (beginRun s).phase = .header := rfl
@[simp] theorem beginRun_err : (beginRun s).err = .noError := rfl
@[simp] theorem beginRun_zdim : (beginRun s).zdim = s.zdim := rfl
@[simp] theorem beginRun_len : (beginRun s).len = s.len := rfl
@[simp] theorem beginRun_cmd : (beginRun s).cmd = s.cmd := rfl
@[simp] theorem beginRun_pix : (beginRun s).pix = [] := rfl
@[simp] theorem beginRun_turns : (beginRun s).turns = s.turns := rfl
@[simp] theorem beginRun_reply : (beginRun s).reply = s.reply := rfl
@[simp] theorem beginRun_cmdEpoch : (beginRun s).cmdEpoch = s.cmdEpoch := rfl
@[simp] theorem beginRun_pixEpoch : (beginRun s).pixEpoch = s.pixEpoch + 1 := rfl

@[simp] theorem resetCmd_width : (resetCmd s).width = 0#16 := rfl
@[simp] theorem resetCmd_height : (resetCmd s).height = 0#16 := rfl
@[simp] theorem resetCmd_mode : (resetCmd s).mode = 0#8 := rfl
@[simp] theorem resetCmd_c1 : (resetCmd s).c1 = Colour.zero := rfl
@[simp] theorem resetCmd_c2 : (resetCmd s).c2 = Colour.zero := rfl
@[simp] theorem resetCmd_x : (resetCmd s).x = 0#16 := rfl
@[simp] theorem resetCmd_y : (resetCmd s).y = 0#16 := rfl
@[simp] theorem resetCmd_phase : (resetCmd s).phase = .idle := rfl
@[simp] theorem resetCmd_err : (resetCmd s).err = .noError := rfl
@[simp] theorem resetCmd_zdim : (resetCmd s).zdim = s.zdim := rfl
@[simp] theorem resetCmd_len : (resetCmd s).len = s.len := rfl
@[simp] theorem resetCmd_cmd : (resetCmd s).cmd = s.cmd := rfl
@[simp] theorem resetCmd_pix : (resetCmd s).pix = [] := rfl
@[simp] theorem resetCmd_turns : (resetCmd s).turns = s.turns := rfl
@[simp] theorem resetCmd_reply : (resetCmd s).reply = s.reply := rfl
@[simp] theorem resetCmd_cmdEpoch : (resetCmd s).cmdEpoch = s.cmdEpoch := rfl
@[simp] theorem resetCmd_pixEpoch : (resetCmd s).pixEpoch = s.pixEpoch + 1 := rfl

@[simp] theorem loadHeader_width (w h : Half) (m : Byte) : (loadHeader w h m s).width = w := rfl
@[simp] theorem loadHeader_height (w h : Half) (m : Byte) : (loadHeader w h m s).height = h := rfl
@[simp] theorem loadHeader_mode (w h : Half) (m : Byte) : (loadHeader w h m s).mode = m := rfl
@[simp] theorem loadHeader_c1 (w h : Half) (m : Byte) : (loadHeader w h m s).c1 = s.c1 := rfl
@[simp] theorem loadHeader_c2 (w h : Half) (m : Byte) : (loadHeader w h m s).c2 = s.c2 := rfl
@[simp] theorem loadHeader_x (w h : Half) (m : Byte) : (loadHeader w h m s).x = s.x := rfl
@[simp] theorem loadHeader_y (w h : Half) (m : Byte) : (loadHeader w h m s).y = s.y := rfl
@[simp] theorem loadHeader_phase (w h : Half) (m : Byte) : (loadHeader w h m s).phase = .dispatch := rfl
@[simp] theorem loadHeader_err (w h : Half) (m : Byte) : (loadHeader w h m s).err = s.err := rfl
@[simp] theorem loadHeader_zdim (w h : Half) (m : Byte) : (loadHeader w h m s).zdim = s.zdim := rfl
@[simp] theorem loadHeader_len (w h : Half) (m : Byte) : (loadHeader w h m s).len = s.len := rfl
@[simp] theorem loadHeader_cmd (w h : Half) (m : Byte) : (loadHeader w h m s).cmd = s.cmd := rfl
@[simp] theorem loadHeader_pix (w h : Half) (m : Byte) : (loadHeader w h m s).pix = s.pix := rfl
@[simp] theorem loadHeader_turns (w h : Half) (m : Byte) : (loadHeader w h m s).turns = s.turns := rfl
@[simp] theorem loadHeader_reply (w h : Half) (m : Byte) : (loadHeader w h m s).reply = s.reply := rfl
@[simp] theorem loadHeader_cmdEpoch (w h : Half) (m : Byte) : (loadHeader w h m s).cmdEpoch = s.cmdEpoch := rfl
@[simp] theorem loadHeader_pixEpoch (w h : Half) (m : Byte) : (loadHeader w h m s).pixEpoch = s.pixEpoch := rfl

@[simp] theorem loadPayloadS_width (a : Colour) : (loadPayloadS a s).width = s.width := rfl
@[simp] theorem loadPayloadS_height (a : Colour) : (loadPayloadS a s).height = s.height := rfl
@[simp] theorem loadPayloadS_mode (a : Colour) : (loadPayloadS a s).mode = s.mode := rfl
@[simp] theorem loadPayloadS_c1 (a : Colour) : (loadPayloadS a s).c1 = a := rfl
@[simp] theorem loadPayloadS_c2 (a : Colour) : (loadPayloadS a s).c2 = s.c2 := rfl
@[simp] theorem loadPayloadS_x (a : Colour) : (loadPayloadS a s).x = s.x := rfl
@[simp] theorem loadPayloadS_y (a : Colour) : (loadPayloadS a s).y = s.y := rfl
@[simp] theorem loadPayloadS_phase (a : Colour) : (loadPayloadS a s).phase = .setup := rfl
@[simp] theorem loadPayloadS_err (a : Colour) : (loadPayloadS a s).err = s.err := rfl
@[simp] theorem loadPayloadS_zdim (a : Colour) : (loadPayloadS a s).zdim = s.zdim := rfl
@[simp] theorem loadPayloadS_len (a : Colour) : (loadPayloadS a s).len = s.len := rfl
@[simp] theorem loadPayloadS_cmd (a : Colour) : (loadPayloadS a s).cmd = s.cmd := rfl
@[simp] theorem loadPayloadS_pix (a : Colour) : (loadPayloadS a s).pix = s.pix := rfl
@[simp] theorem loadPayloadS_turns (a : Colour) : (loadPayloadS a s).turns = s.turns := rfl
@[simp] theorem loadPayloadS_reply (a : Colour) : (loadPayloadS a s).reply = s.reply := rfl
@[simp] theorem loadPayloadS_cmdEpoch (a : Colour) : (loadPayloadS a s).cmdEpoch = s.cmdEpoch := rfl
@[simp] theorem loadPayloadS_pixEpoch (a : Colour) : (loadPayloadS a s).pixEpoch = s.pixEpoch := rfl

@[simp] theorem loadPayloadP_width (a b : Colour) : (loadPayloadP a b s).width = s.width := rfl
@[simp] theorem loadPayloadP_height (a b : Colour) : (loadPayloadP a b s).height = s.height := rfl
@[simp] theorem loadPayloadP_mode (a b : Colour) : (loadPayloadP a b s).mode = s.mode := rfl
@[simp] theorem loadPayloadP_c1 (a b : Colour) : (loadPayloadP a b s).c1 = a := rfl
@[simp] theorem loadPayloadP_c2 (a b : Colour) : (loadPayloadP a b s).c2 = b := rfl
@[simp] theorem loadPayloadP_x (a b : Colour) : (loadPayloadP a b s).x = s.x := rfl
@[simp] theorem loadPayloadP_y (a b : Colour) : (loadPayloadP a b s).y = s.y := rfl
@[simp] theorem loadPayloadP_phase (a b : Colour) : (loadPayloadP a b s).phase = .setup := rfl
@[simp] theorem loadPayloadP_err (a b : Colour) : (loadPayloadP a b s).err = s.err := rfl
@[simp] theorem loadPayloadP_zdim (a b : Colour) : (loadPayloadP a b s).zdim = s.zdim := rfl
@[simp] theorem loadPayloadP_len (a b : Colour) : (loadPayloadP a b s).len = s.len := rfl
@[simp] theorem loadPayloadP_cmd (a b : Colour) : (loadPayloadP a b s).cmd = s.cmd := rfl
@[simp] theorem loadPayloadP_pix (a b : Colour) : (loadPayloadP a b s).pix = s.pix := rfl
@[simp] theorem loadPayloadP_turns (a b : Colour) : (loadPayloadP a b s).turns = s.turns := rfl
@[simp] theorem loadPayloadP_reply (a b : Colour) : (loadPayloadP a b s).reply = s.reply := rfl
@[simp] theorem loadPayloadP_cmdEpoch (a b : Colour) : (loadPayloadP a b s).cmdEpoch = s.cmdEpoch := rfl
@[simp] theorem loadPayloadP_pixEpoch (a b : Colour) : (loadPayloadP a b s).pixEpoch = s.pixEpoch := rfl

@[simp] theorem writePix_width (i : Nat) (c : Colour) : (writePix i c s).width = s.width := rfl
@[simp] theorem writePix_height (i : Nat) (c : Colour) : (writePix i c s).height = s.height := rfl
@[simp] theorem writePix_mode (i : Nat) (c : Colour) : (writePix i c s).mode = s.mode := rfl
@[simp] theorem writePix_c1 (i : Nat) (c : Colour) : (writePix i c s).c1 = s.c1 := rfl
@[simp] theorem writePix_c2 (i : Nat) (c : Colour) : (writePix i c s).c2 = s.c2 := rfl
@[simp] theorem writePix_x (i : Nat) (c : Colour) : (writePix i c s).x = s.x := rfl
@[simp] theorem writePix_y (i : Nat) (c : Colour) : (writePix i c s).y = s.y := rfl
@[simp] theorem writePix_phase (i : Nat) (c : Colour) : (writePix i c s).phase = s.phase := rfl
@[simp] theorem writePix_err (i : Nat) (c : Colour) : (writePix i c s).err = s.err := rfl
@[simp] theorem writePix_zdim (i : Nat) (c : Colour) : (writePix i c s).zdim = s.zdim := rfl
@[simp] theorem writePix_len (i : Nat) (c : Colour) : (writePix i c s).len = s.len := rfl
@[simp] theorem writePix_cmd (i : Nat) (c : Colour) : (writePix i c s).cmd = s.cmd := rfl
@[simp] theorem writePix_pix (i : Nat) (c : Colour) : (writePix i c s).pix = Memory.write s.pix i c := rfl
@[simp] theorem writePix_turns (i : Nat) (c : Colour) : (writePix i c s).turns = s.turns := rfl
@[simp] theorem writePix_reply (i : Nat) (c : Colour) : (writePix i c s).reply = s.reply := rfl
@[simp] theorem writePix_cmdEpoch (i : Nat) (c : Colour) : (writePix i c s).cmdEpoch = s.cmdEpoch := rfl
@[simp] theorem writePix_pixEpoch (i : Nat) (c : Colour) : (writePix i c s).pixEpoch = s.pixEpoch := rfl

@[simp] theorem setTurns_width (ts : List Turn) : (setTurns ts s).width = s.width := rfl
@[simp] theorem setTurns_height (ts : List Turn) : (setTurns ts s).height = s.height := rfl
@[simp] theorem setTurns_mode (ts : List Turn) : (setTurns ts s).mode = s.mode := rfl
@[simp] theorem setTurns_c1 (ts : List Turn) : (setTurns ts s).c1 = s.c1 := rfl
@[simp] theorem setTurns_c2 (ts : List Turn) : (setTurns ts s).c2 = s.c2 := rfl
@[simp] theorem setTurns_x (ts : List Turn) : (setTurns ts s).x = s.x := rfl
@[simp] theorem setTurns_y (ts : List Turn) : (setTurns ts s).y = s.y := rfl
@[simp] theorem setTurns_phase (ts : List Turn) : (setTurns ts s).phase = s.phase := rfl
@[simp] theorem setTurns_err (ts : List Turn) : (setTurns ts s).err = s.err := rfl
@[simp] theorem setTurns_zdim (ts : List Turn) : (setTurns ts s).zdim = s.zdim := rfl
@[simp] theorem setTurns_len (ts : List Turn) : (setTurns ts s).len = s.len := rfl
@[simp] theorem setTurns_cmd (ts : List Turn) : (setTurns ts s).cmd = s.cmd := rfl
@[simp] theorem setTurns_pix (ts : List Turn) : (setTurns ts s).pix = s.pix := rfl
@[simp] theorem setTurns_turns (ts : List Turn) : (setTurns ts s).turns = ts := rfl
@[simp] theorem setTurns_reply (ts : List Turn) : (setTurns ts s).reply = s.reply := rfl
@[simp] theorem setTurns_cmdEpoch (ts : List Turn) : (setTurns ts s).cmdEpoch = s.cmdEpoch := rfl
@[simp] theorem setTurns_pixEpoch (ts : List Turn) : (setTurns ts s).pixEpoch = s.pixEpoch := rfl

@[simp] theorem setReply_width (r : Reply) : (setReply r s).width = s.width := rfl
@[simp] theorem setReply_height (r : Reply) : (setReply r s).height = s.height := rfl
@[simp] theorem setReply_mode (r : Reply) : (setReply r s).mode = s.mode := rfl
@[simp] theorem setReply_c1 (r : Reply) : (setReply r s).c1 = s.c1 := rfl
@[simp] theorem setReply_c2 (r : Reply) : (setReply r s).c2 = s.c2 := rfl
@[simp] theorem setReply_x (r : Reply) : (setReply r s).x = s.x := rfl
@[simp] theorem setReply_y (r : Reply) : (setReply r s).y = s.y := rfl
@[simp] theorem setReply_phase (r : Reply) : (setReply r s).phase = s.phase := rfl
@[simp] theorem setReply_err (r : Reply) : (setReply r s).err = s.err := rfl
@[simp] theorem setReply_zdim (r : Reply) : (setReply r s).zdim = s.zdim := rfl
@[simp] theorem setReply_len (r : Reply) : (setReply r s).len = s.len := rfl
@[simp] theorem setReply_cmd (r : Reply) : (setReply r s).cmd = s.cmd := rfl
@[simp] theorem setReply_pix (r : Reply) : (setReply r s).pix = s.pix := rfl
@[simp] theorem setReply_turns (r : Reply) : (setReply r s).turns = s.turns := rfl
@[simp] theorem setReply_reply (r : Reply) : (setReply r s).reply = some r := rfl
@[simp] theorem setReply_cmdEpoch (r : Reply) : (setReply r s).cmdEpoch = s.cmdEpoch := rfl
@[simp] theorem setReply_pixEpoch (r : Reply) : (setReply r s).pixEpoch = s.pixEpoch := rfl

end Sys2Proof.Machine
end

