-- ==== Sys2Proof/Laws/Ops.lean ====
section
/-! SUPPORT. What the shared operations of the engine steps can do, said once, and what they leave alone. -/

namespace Sys2Proof.Machine

variable (s : State)

/-! ## Scan advance and RENDER -/

/-- The three outcomes of the scan advance. -/
theorem advance_cases :
    (s.x.toNat + 1 < s.width.toNat ∧ advance s = { s with x := s.x + 1#16 }) ∨
    (¬ s.x.toNat + 1 < s.width.toNat ∧ s.y.toNat + 1 < s.height.toNat ∧
      advance s = { s with x := 0#16, y := s.y + 1#16 }) ∨
    (¬ s.x.toNat + 1 < s.width.toNat ∧ ¬ s.y.toNat + 1 < s.height.toNat ∧ advance s = { s with phase := .done }) := by
  unfold advance
  split
  · exact .inl ⟨‹_›, rfl⟩
  · split
    · exact .inr (.inl ⟨‹_›, ‹_›, rfl⟩)
    · exact .inr (.inr ⟨‹_›, ‹_›, rfl⟩)

@[simp] theorem advance_width : (advance s).width = s.width := by
  rcases advance_cases s with h | h | h <;> simp [h]
@[simp] theorem advance_height : (advance s).height = s.height := by
  rcases advance_cases s with h | h | h <;> simp [h]
@[simp] theorem advance_mode : (advance s).mode = s.mode := by
  rcases advance_cases s with h | h | h <;> simp [h]
@[simp] theorem advance_c1 : (advance s).c1 = s.c1 := by
  rcases advance_cases s with h | h | h <;> simp [h]
@[simp] theorem advance_c2 : (advance s).c2 = s.c2 := by
  rcases advance_cases s with h | h | h <;> simp [h]
@[simp] theorem advance_err : (advance s).err = s.err := by
  rcases advance_cases s with h | h | h <;> simp [h]
@[simp] theorem advance_zdim : (advance s).zdim = s.zdim := by
  rcases advance_cases s with h | h | h <;> simp [h]
@[simp] theorem advance_len : (advance s).len = s.len := by
  rcases advance_cases s with h | h | h <;> simp [h]
@[simp] theorem advance_cmd : (advance s).cmd = s.cmd := by
  rcases advance_cases s with h | h | h <;> simp [h]
@[simp] theorem advance_pix : (advance s).pix = s.pix := by
  rcases advance_cases s with h | h | h <;> simp [h]
@[simp] theorem advance_turns : (advance s).turns = s.turns := by
  rcases advance_cases s with h | h | h <;> simp [h]
@[simp] theorem advance_reply : (advance s).reply = s.reply := by
  rcases advance_cases s with h | h | h <;> simp [h]
@[simp] theorem advance_cmdEpoch : (advance s).cmdEpoch = s.cmdEpoch := by
  rcases advance_cases s with h | h | h <;> simp [h]
@[simp] theorem advance_pixEpoch : (advance s).pixEpoch = s.pixEpoch := by
  rcases advance_cases s with h | h | h <;> simp [h]

@[simp] theorem renderStep_width (c : Colour) : (renderStep c s).width = s.width := by simp [renderStep]
@[simp] theorem renderStep_height (c : Colour) : (renderStep c s).height = s.height := by simp [renderStep]
@[simp] theorem renderStep_mode (c : Colour) : (renderStep c s).mode = s.mode := by simp [renderStep]
@[simp] theorem renderStep_c1 (c : Colour) : (renderStep c s).c1 = s.c1 := by simp [renderStep]
@[simp] theorem renderStep_c2 (c : Colour) : (renderStep c s).c2 = s.c2 := by simp [renderStep]
@[simp] theorem renderStep_err (c : Colour) : (renderStep c s).err = s.err := by simp [renderStep]
@[simp] theorem renderStep_zdim (c : Colour) : (renderStep c s).zdim = s.zdim := by simp [renderStep]
@[simp] theorem renderStep_len (c : Colour) : (renderStep c s).len = s.len := by simp [renderStep]
@[simp] theorem renderStep_cmd (c : Colour) : (renderStep c s).cmd = s.cmd := by simp [renderStep]
@[simp] theorem renderStep_pix (c : Colour) : (renderStep c s).pix = Memory.write s.pix (pixIndex s) c := by simp [renderStep]
@[simp] theorem renderStep_turns (c : Colour) : (renderStep c s).turns = s.turns := by simp [renderStep]
@[simp] theorem renderStep_reply (c : Colour) : (renderStep c s).reply = s.reply := by simp [renderStep]
@[simp] theorem renderStep_cmdEpoch (c : Colour) : (renderStep c s).cmdEpoch = s.cmdEpoch := by simp [renderStep]
@[simp] theorem renderStep_pixEpoch (c : Colour) : (renderStep c s).pixEpoch = s.pixEpoch := by simp [renderStep]

@[simp] theorem pixIndex_writePix (i : Nat) (c : Colour) : pixIndex (writePix i c s) = pixIndex s := rfl

/-! ## SETUP -/

/-- The three outcomes of SETUP. -/
theorem setupStep_cases :
    ((s.width = 0#16 ∨ s.height = 0#16) ∧ s.zdim = .reject ∧ setupStep s = trapEntry .emptyDimension s) ∨
    ((s.width = 0#16 ∨ s.height = 0#16) ∧ s.zdim = .emitEmpty ∧ setupStep s = { s with phase := .done }) ∨
    (s.width ≠ 0#16 ∧ s.height ≠ 0#16 ∧ setupStep s = { s with x := 0#16, y := 0#16, phase := .render }) := by
  unfold setupStep
  split
  · cases h : s.zdim
    · exact .inr (.inl ⟨‹_›, rfl, rfl⟩)
    · exact .inl ⟨‹_›, rfl, rfl⟩
  · rename_i h
    exact .inr (.inr ⟨fun e => h (.inl e), fun e => h (.inr e), rfl⟩)

@[simp] theorem setupStep_width : (setupStep s).width = s.width := by
  rcases setupStep_cases s with h | h | h <;> simp [h]
@[simp] theorem setupStep_height : (setupStep s).height = s.height := by
  rcases setupStep_cases s with h | h | h <;> simp [h]
@[simp] theorem setupStep_mode : (setupStep s).mode = s.mode := by
  rcases setupStep_cases s with h | h | h <;> simp [h]
@[simp] theorem setupStep_c1 : (setupStep s).c1 = s.c1 := by
  rcases setupStep_cases s with h | h | h <;> simp [h]
@[simp] theorem setupStep_c2 : (setupStep s).c2 = s.c2 := by
  rcases setupStep_cases s with h | h | h <;> simp [h]
@[simp] theorem setupStep_zdim : (setupStep s).zdim = s.zdim := by
  rcases setupStep_cases s with h | h | h <;> simp [h]
@[simp] theorem setupStep_len : (setupStep s).len = s.len := by
  rcases setupStep_cases s with h | h | h <;> simp [h]
@[simp] theorem setupStep_cmd : (setupStep s).cmd = s.cmd := by
  rcases setupStep_cases s with h | h | h <;> simp [h]
@[simp] theorem setupStep_pix : (setupStep s).pix = s.pix := by
  rcases setupStep_cases s with h | h | h <;> simp [h]
@[simp] theorem setupStep_turns : (setupStep s).turns = s.turns := by
  rcases setupStep_cases s with h | h | h <;> simp [h]
@[simp] theorem setupStep_reply : (setupStep s).reply = s.reply := by
  rcases setupStep_cases s with h | h | h <;> simp [h]
@[simp] theorem setupStep_cmdEpoch : (setupStep s).cmdEpoch = s.cmdEpoch := by
  rcases setupStep_cases s with h | h | h <;> simp [h]
@[simp] theorem setupStep_pixEpoch : (setupStep s).pixEpoch = s.pixEpoch := by
  rcases setupStep_cases s with h | h | h <;> simp [h]

/-! ## HEADER -/

/-- The two outcomes of HEADER. -/
theorem headerStep_cases :
    (s.len < 5 ∧ headerStep s = trapEntry .truncatedHeader s) ∨
    (5 ≤ s.len ∧ headerStep s = loadHeader (cmdHalf s 0) (cmdHalf s 2) (cmdByte s 4) s) := by
  unfold headerStep hdrLen
  split
  · exact .inl ⟨‹_›, rfl⟩
  · exact .inr ⟨by omega, rfl⟩

/-! ## Whether the engine is halted -/

theorem halted_eq_true : halted s = true ↔ s.phase = .idle ∨ s.phase = .done ∨ s.phase = .error := by
  unfold halted busyFlag
  cases s.phase <;> simp

theorem busyFlag_eq_true :
    busyFlag s = true ↔ s.phase = .header ∨ s.phase = .dispatch ∨ s.phase = .setup ∨ s.phase = .render := by
  unfold busyFlag
  cases s.phase <;> simp

end Sys2Proof.Machine
end

