-- ==== Sys2Proof/Laws/Exec.lean ====
section
/-! SUPPORT. What the meanings can do, said once: `exec` never stops, and by phase it is one of the shared effects. -/

namespace Sys2Proof.Machine

/-- The payload load of an instruction (R92). -/
def instrLoad : Instr → State → State
  | .solid _ _ r g b => loadPayloadS ⟨r, g, b⟩
  | .vgrad _ _ r1 g1 b1 r2 g2 b2 => loadPayloadP ⟨r1, g1, b1⟩ ⟨r2, g2, b2⟩
  | .hgrad _ _ r1 g1 b1 r2 g2 b2 => loadPayloadP ⟨r1, g1, b1⟩ ⟨r2, g2, b2⟩
  | .checker _ _ r1 g1 b1 r2 g2 b2 => loadPayloadP ⟨r1, g1, b1⟩ ⟨r2, g2, b2⟩

/-- The colour rule of an instruction, on the operand registers (R95). -/
def instrColour : Instr → State → Colour
  | .solid .., s => solidColour s.c1
  | .vgrad .., s => vgradColour s.c1 s.c2 s.height.toNat s.y.toNat
  | .hgrad .., s => hgradColour s.c1 s.c2 s.width.toNat s.x.toNat
  | .checker .., s => checkerColour s.c1 s.c2 s.x.toNat s.y.toNat

/-- Every meaning is the shared sequence with its own header fields, load and colour rule. -/
theorem exec_eq_instrStep (i : Instr) (s : State) :
    exec i s = .next (instrStep i.widthField i.heightField i.modeByte (instrLoad i) (instrColour i) s) := by
  cases i <;> rfl

/-- The inversion of `exec`: a next state by one of the four effects, or the same state where the engine is halted. -/
theorem exec_cases (i : Instr) (s : State) :
    (s.phase = .header ∧ exec i s = .next (loadHeader i.widthField i.heightField i.modeByte s)) ∨
    (s.phase = .dispatch ∧ exec i s = .next (instrLoad i s)) ∨
    (s.phase = .setup ∧ exec i s = .next (setupStep s)) ∨
    (s.phase = .render ∧ exec i s = .next (renderStep (instrColour i s) s)) ∨
    (halted s = true ∧ exec i s = .next s) := by
  rw [exec_eq_instrStep]
  unfold instrStep halted busyFlag
  cases s.phase <;> simp

/-- The load of an instruction leaves everything but `C1`, `C2` and `PHASE` alone. -/
theorem instrLoad_frame (i : Instr) (s : State) :
    (instrLoad i s).width = s.width ∧ (instrLoad i s).height = s.height ∧ (instrLoad i s).mode = s.mode ∧
    (instrLoad i s).x = s.x ∧ (instrLoad i s).y = s.y ∧ (instrLoad i s).phase = .setup ∧ (instrLoad i s).err = s.err ∧
    (instrLoad i s).zdim = s.zdim ∧ (instrLoad i s).len = s.len ∧ (instrLoad i s).cmd = s.cmd ∧
    (instrLoad i s).pix = s.pix ∧ (instrLoad i s).turns = s.turns ∧ (instrLoad i s).reply = s.reply ∧
    (instrLoad i s).cmdEpoch = s.cmdEpoch ∧ (instrLoad i s).pixEpoch = s.pixEpoch := by
  cases i <;> simp [instrLoad]

end Sys2Proof.Machine
end

