-- ==== Sys2Proof/Laws/Step.lean ====
section
/-! SUPPORT. What a step can do, said once, and running several steps. -/

namespace Sys2Proof.Machine

variable (s : State)

/-- Whose move a step is. -/
theorem step_cases :
    (s.turns = [] ∧ step s = engineMove s) ∨
    (∃ ts, s.turns = .engine :: ts ∧ step s = engineMove (setTurns ts s)) ∨
    (∃ a ts, s.turns = .host a :: ts ∧ step s = .next (hostAct a (setTurns ts s))) := by
  unfold step nextMove
  rcases h : s.turns with _ | ⟨_ | a, ts⟩
  · exact .inl ⟨rfl, rfl⟩
  · exact .inr (.inl ⟨ts, rfl, rfl⟩)
  · exact .inr (.inr ⟨a, ts, rfl, rfl⟩)

theorem step_of_no_turns (h : s.turns = []) : step s = engineMove s := by simp [step, nextMove, h]

theorem step_of_host {a : HostAction} {ts : List Turn} (h : s.turns = .host a :: ts) :
    step s = .next (hostAct a (setTurns ts s)) := by simp [step, nextMove, h]

theorem cmdBytes_length (a n : Nat) : (cmdBytes s a n).length = n := by simp [cmdBytes]

theorem command_length : (command s).length = min s.len 11 := by simp [command, cmdBytes, maxInstrLen]

/-! ## Several steps -/

theorem runFor_zero : runFor 0 s = .next s := rfl

variable {s}

theorem runFor_succ_of_next {t : State} (k : Nat) (h : step s = .next t) : runFor (k + 1) s = runFor k t := by
  simp only [runFor, h]

theorem runFor_succ_of_fault {f : Fault} (k : Nat) (h : step s = .fault f) : runFor (k + 1) s = .fault f := by
  simp only [runFor, h]

theorem runFor_succ_of_refused {r : Refusal} (k : Nat) (h : step s = .refused r) :
    runFor (k + 1) s = .refused r := by
  simp only [runFor, h]

/-- Running `a` steps and then `b` more. -/
theorem runFor_add {a : Nat} (b : Nat) {t : State} (h : runFor a s = .next t) : runFor (a + b) s = runFor b t := by
  induction a generalizing s with
  | zero => cases h; simp
  | succ a ih =>
    rw [Nat.add_right_comm]
    cases hs : step s with
    | next u => rw [runFor_succ_of_next _ hs] at h ⊢; exact ih h
    | fault r => rw [runFor_succ_of_fault _ hs] at h; cases h
    | refused r => rw [runFor_succ_of_refused _ hs] at h; cases h

/-- One step more, from the back. -/
theorem runFor_succ_back {k : Nat} {t : State} (h : runFor k s = .next t) : runFor (k + 1) s = step t := by
  rw [runFor_add 1 h]
  cases hs : step t with
  | next u => rw [runFor_succ_of_next _ hs]; rfl
  | fault r => rw [runFor_succ_of_fault _ hs]
  | refused r => rw [runFor_succ_of_refused _ hs]

/-- `runFor` is the host's `Core.run` of this machine. -/
theorem runFor_eq_core_run (k : Nat) (s : State) : runFor k s = Host.Core.run Sys2Proof.core k s := by
  induction k generalizing s with
  | zero => rfl
  | succ k ih =>
    have e : Sys2Proof.core.step s = step s := rfl
    cases hs : step s with
    | next u => rw [runFor_succ_of_next _ hs, ih]; simp only [Host.Core.run, e, hs]; rfl
    | fault r => rw [runFor_succ_of_fault _ hs]; simp only [Host.Core.run, e, hs]; rfl
    | refused r => rw [runFor_succ_of_refused _ hs]; simp only [Host.Core.run, e, hs]; rfl

end Sys2Proof.Machine
end

