-- ==== Sys2Proof/Laws/HostPort.lean ====
section
/-! SUPPORT. What the host's moves can do, said once. -/

namespace Sys2Proof.Machine

/-- Bit 0 of a written value, as arithmetic. -/
theorem testBit_zero_iff (v : Nat) : v.testBit 0 = decide (v % 2 = 1) := by simp [Nat.testBit_zero]

/-- Bit 1 of a written value, as arithmetic. -/
theorem testBit_one_iff (v : Nat) : v.testBit 1 = decide (v / 2 % 2 = 1) := by
  rw [Nat.testBit_succ]; simp [Nat.testBit_zero]

/-- The inversion of `hostAct`: each kind of action and the one operation it is. -/
theorem hostAct_cases (a : HostAction) (s : State) :
    (∃ v, a = .writeReg 0 v ∧ ((v.testBit 1 = true ∧ hostAct a s = resetCmd s) ∨ (v.testBit 1 = false ∧ v.testBit 0 = true ∧ hostAct a s = startCmd s)
      ∨ (v.testBit 1 = false ∧ v.testBit 0 = false ∧ hostAct a s = s))) ∨
    (∃ v, a = .writeReg 1 v ∧ hostAct a s = writeCfg v s) ∨
    (∃ v, a = .writeReg 2 v ∧ hostAct a s = writeLen v s) ∨
    (∃ n v, 3 ≤ n ∧ a = .writeReg n v ∧ hostAct a s = s) ∨
    (∃ i b, a = .writeCmd i b ∧ hostAct a s = writeCmd i b s) ∨
    (∃ r, ((∃ n, a = .readReg n) ∨ (∃ n, a = .readCmd n) ∨ (∃ n, a = .readPix n)) ∧ hostAct a s = setReply r s) ∨
    (a = .hardwareReset ∧ hostAct a s = hardwareReset s) := by
  cases a with
  | writeReg n v =>
    rcases n with _ | _ | _ | n
    · refine .inl ⟨v, rfl, ?_⟩
      simp only [hostAct, writeReg, writeCtrl]
      cases v.testBit 1 <;> cases v.testBit 0 <;> simp
    · exact .inr (.inl ⟨v, rfl, rfl⟩)
    · exact .inr (.inr (.inl ⟨v, rfl, rfl⟩))
    · exact .inr (.inr (.inr (.inl ⟨n+3, v, by omega, rfl, rfl⟩)))
  | readReg n => exact .inr (.inr (.inr (.inr (.inr (.inl ⟨_, .inl ⟨n, rfl⟩, rfl⟩)))))
  | writeCmd i b => exact .inr (.inr (.inr (.inr (.inl ⟨i, b, rfl, rfl⟩))))
  | readCmd n => exact .inr (.inr (.inr (.inr (.inr (.inl ⟨_, .inr (.inl ⟨n, rfl⟩), rfl⟩)))))
  | readPix n => exact .inr (.inr (.inr (.inr (.inr (.inl ⟨_, .inr (.inr ⟨n, rfl⟩), rfl⟩)))))
  | hardwareReset => exact .inr (.inr (.inr (.inr (.inr (.inr ⟨rfl, rfl⟩)))))

/-- No host action breaks the canonical form of `CMD`. -/
theorem wf_cmd_hostAct (a : HostAction) {s : State} (h : Memory.wf s.cmd) : Memory.wf (hostAct a s).cmd := by
  rcases hostAct_cases a s with ⟨v, -, h'⟩ | ⟨v, -, h'⟩ | ⟨v, -, h'⟩ | ⟨n, v, -, -, h'⟩ | ⟨i, b, -, h'⟩ | ⟨r, -, h'⟩ |
    ⟨-, h'⟩
  · rcases h' with ⟨-, h'⟩ | ⟨-, -, h'⟩ | ⟨-, -, h'⟩ <;> rw [h']
    · exact h
    · unfold startCmd; split <;> exact h
    · exact h
  · rw [h']; unfold writeCfg; split <;> exact h
  · rw [h']; unfold writeLen; split <;> exact h
  · rw [h']; exact h
  · rw [h']; unfold writeCmd; split
    · exact Memory.wf_write h _ _
    · exact h
  · rw [h']; exact h
  · rw [h']; exact Memory.wf_nil

/-- A host action leaves `PIX` as it is or empties it, so its canonical form stays. -/
theorem pix_hostAct (a : HostAction) (s : State) : (hostAct a s).pix = s.pix ∨ (hostAct a s).pix = [] := by
  rcases hostAct_cases a s with ⟨v, -, h'⟩ | ⟨v, -, h'⟩ | ⟨v, -, h'⟩ | ⟨n, v, -, -, h'⟩ | ⟨i, b, -, h'⟩ | ⟨r, -, h'⟩ |
    ⟨-, h'⟩
  · rcases h' with ⟨-, h'⟩ | ⟨-, -, h'⟩ | ⟨-, -, h'⟩ <;> rw [h']
    · exact .inr rfl
    · unfold startCmd; split
      · exact .inr rfl
      · exact .inl rfl
    · exact .inl rfl
  · rw [h']; unfold writeCfg; split <;> exact .inl rfl
  · rw [h']; unfold writeLen; split <;> exact .inl rfl
  · rw [h']; exact .inl rfl
  · rw [h']; unfold writeCmd; split <;> exact .inl rfl
  · rw [h']; exact .inl rfl
  · rw [h']; exact .inr rfl

end Sys2Proof.Machine
end

