-- ==== Sys2Proof/Laws/Operands.lean ====
section
/-! SUPPORT. What the operands of the engine steps are: the command bytes, the payload, the program of a run. -/

namespace Sys2Proof.Machine

/-- A long enough command is its five header bytes and the payload. -/
theorem command_eq (s : State) (h : 5 ≤ s.len) :
    command s = cmdByte s 0 :: cmdByte s 1 :: cmdByte s 2 :: cmdByte s 3 :: cmdByte s 4 :: payload s := by
  have e : min s.len 11 = 5 + (min s.len 11 - 5) := by omega
  simp only [command, payload, maxInstrLen, hdrLen]
  rw [e]
  generalize min s.len 11 - 5 = k
  have : 5 + k - 5 = k := by omega
  rw [this]
  simp only [cmdBytes, List.range_add, List.map_append, List.map_map]
  simp [List.range_succ, Function.comp_def]

/-- The payload a format S command needs. -/
theorem payload_eq_cons3 (s : State) (h : 8 ≤ s.len) :
    ∃ r, payload s = cmdByte s 5 :: cmdByte s 6 :: cmdByte s 7 :: r := by
  have e : min s.len 11 - 5 = 3 + (min s.len 11 - 8) := by omega
  simp only [payload, maxInstrLen, hdrLen]
  rw [e]
  simp only [cmdBytes, List.range_add, List.map_append, List.map_map]
  exact ⟨_, by simp [List.range_succ]; rfl⟩

/-- The payload a format P command needs is all of it. -/
theorem payload_eq6 (s : State) (h : 11 ≤ s.len) :
    payload s = [cmdByte s 5, cmdByte s 6, cmdByte s 7, cmdByte s 8, cmdByte s 9, cmdByte s 10] := by
  have e : min s.len 11 - 5 = 6 := by omega
  simp only [payload, maxInstrLen, hdrLen]
  rw [e]; simp [cmdBytes, List.range_succ]

theorem payload_length (s : State) : (payload s).length = min s.len 11 - 5 := by simp [payload, cmdBytes, maxInstrLen, hdrLen]

theorem program_length (s : State) : (program s).length = s.len := by simp [program, cmdBytes]

/-- Byte `i` of the program is the byte `CMD` holds there. -/
theorem program_getElem? (s : State) (i : Nat) (h : i < s.len) : (program s)[i]? = some (cmdByte s i) := by
  simp [program, cmdBytes, h]

theorem byteAt_program (s : State) (i : Nat) (h : i < s.len) : byteAt (program s) i = cmdByte s i := by
  unfold byteAt; rw [List.getD_eq_getElem?_getD, program_getElem? s i h]; rfl

/-- The bytes a run can read are the first eleven of its program. -/
theorem command_eq_take (s : State) : command s = (program s).take 11 := by
  unfold command program cmdBytes
  rw [← List.map_take, List.take_range, Nat.min_comm]

/-- A stored command is read back. -/
theorem cmdByte_loadAndBegin (bs : List Byte) (s : State) (i : Nat) (h : i < bs.length) :
    cmdByte (loadAndBegin bs s) i = bs[i]'h := by
  unfold cmdByte
  have : (loadAndBegin bs s).cmd = storeCmd bs 0 s.cmd := rfl
  rw [this, read_storeCmd]
  simp [h]

theorem program_loadAndBegin (bs : List Byte) (s : State) : program (loadAndBegin bs s) = bs := by
  unfold program cmdBytes
  have : (loadAndBegin bs s).len = bs.length := rfl
  rw [this]
  apply List.ext_getElem
  · simp
  · intro i h1 h2
    simp [cmdByte_loadAndBegin bs s i h2]

theorem tableBytes_length (nbits w : Nat) : (tableBytes nbits w).length = 11 := by
  unfold tableBytes; simp only []; split <;> simp [bigEndianBytes]

end Sys2Proof.Machine
end

