-- ==== Sys2Proof/Laws/PerInstr.lean ====
section
/-! SUPPORT. Statements made per instruction: the length of its encoding (30_encoding.md R67). -/

namespace Sys2Proof.Laws

/-- The canonical bytes of the instruction are as many as its mode byte says. -/
def EncodedLength.Statement (i : Instr) : Prop :=
  instrLen i.modeByte = some (encode i).length

theorem EncodedLength.solid (w h : Half) (r g b : Byte) : EncodedLength.Statement (.solid w h r g b) := rfl

theorem EncodedLength.vgrad (w h : Half) (r1 g1 b1 r2 g2 b2 : Byte) :
    EncodedLength.Statement (.vgrad w h r1 g1 b1 r2 g2 b2) := rfl

theorem EncodedLength.hgrad (w h : Half) (r1 g1 b1 r2 g2 b2 : Byte) :
    EncodedLength.Statement (.hgrad w h r1 g1 b1 r2 g2 b2) := rfl

theorem EncodedLength.checker (w h : Half) (r1 g1 b1 r2 g2 b2 : Byte) :
    EncodedLength.Statement (.checker w h r1 g1 b1 r2 g2 b2) := rfl

end Sys2Proof.Laws
end

