-- ==== Sys2Proof/Laws/Render.lean ====
section
/-! SUPPORT. The RENDER step and the scan, and the outcomes of the DISPATCH step in the spec's pseudocode. -/

namespace Sys2Proof.Machine

/-- What one RENDER step does, whatever the colour. -/
theorem rendered_renderStep (s : State) (c : Colour) : Rendered s c (renderStep c s) := by
  unfold Rendered
  refine ⟨?_, fun j hj => ?_, ?_, by simp, by simp, by simp, by simp, by simp, by simp, by simp [SameHostSide]⟩
  · rw [renderStep_pix]; exact Memory.read_write_self _ _ _
  · rw [renderStep_pix]; exact Memory.read_write_of_ne _ _ hj
  · have hx := s.x.isLt; have hy := s.y.isLt; have hw := s.width.isLt; have hh := s.height.isLt
    rcases advance_cases (writePix (pixIndex s) c s) with ⟨h1, h'⟩ | ⟨h1, h2, h'⟩ | ⟨h1, h2, h'⟩ <;> simp only [renderStep, h'] <;>
      simp only [writePix_x, writePix_width] at h1
    · rw [if_pos h1]; simp; omega
    · simp only [writePix_y, writePix_height] at h2
      rw [if_neg h1, if_pos h2]; simp; omega
    · simp only [writePix_y, writePix_height] at h2
      rw [if_neg h1, if_neg h2]; simp

/-- In RENDER every instruction stores the colour of its own rule. -/
theorem exec_of_render (i : Instr) (s : State) (h : s.phase = .render) :
    exec i s = .next (renderStep (instrColour i s) s) := by
  rw [exec_eq_instrStep]; simp [instrStep, h]

/-- The outcomes of DISPATCH: a trap, or one of the two loads. -/
theorem dispatchStep_cases (s : State) :
    (∃ k, dispatchStep s = trapEntry k s) ∨ (∃ c, dispatchStep s = loadPayloadS c s) ∨
      (∃ c d, dispatchStep s = loadPayloadP c d s) := by
  unfold dispatchStep
  cases reqLen s.mode with
  | none => exact .inl ⟨_, rfl⟩
  | some n =>
    by_cases h : (s.len : Int) - 5 < n
    · exact .inl ⟨.payloadTooShort, by simp only [h, if_true]⟩
    · by_cases h6 : n = 6
      · subst h6; exact .inr (.inr ⟨cmdColour s 5, cmdColour s 8, by simp only [h, if_false, if_true]⟩)
      · exact .inr (.inl ⟨cmdColour s 5, by simp only [h, h6, if_false]⟩)

/-- A mode that names a rule has a colour at every position. -/
theorem colourAt_of_mode (s : State) (h : (reqLen s.mode).isSome) (x y : Nat) : ∃ c, colourAt s x y = some c := by
  unfold colourAt colourOf
  rcases reqLen_cases s.mode with ⟨hm, hr⟩ | ⟨hm, hr⟩ | ⟨hm, hr⟩
  · rw [if_pos hm]; exact ⟨_, rfl⟩
  · rcases hm with hm | hm | hm <;> rw [hm] <;> exact ⟨_, rfl⟩
  · rw [hr] at h; cases h

/-- Writing the next index of a memory that lists exactly the first `n` appends one entry. -/
theorem Memory.write_of_range {α : Type} (m : Memory α) (n : Nat) (c : α) (h : m.map Prod.fst = List.range n) :
    Memory.write m n c = m ++ [(n, c)] := by
  have hlt : ∀ p ∈ m, p.1 < n := by
    intro p hp
    have : p.1 ∈ m.map Prod.fst := List.mem_map_of_mem hp
    rw [h] at this; exact List.mem_range.mp this
  clear h
  induction m with
  | nil => rfl
  | cons p m ih =>
    obtain ⟨b, u⟩ := p
    have := hlt (b, u) (by simp)
    simp only [] at this
    have h1 : ¬ n < b := by omega
    have h2 : ¬ n = b := by omega
    simp only [Memory.write, h1, h2, if_false, List.cons_append, ih (fun p hp => hlt p (by simp [hp]))]

/-- The indices of an image row by row. -/
theorem filterMap_range_mul {α : Type} (f : Nat → Option α) (w h : Nat) :
    (List.range (w * h)).filterMap f =
      (List.range h).flatMap fun y => (List.range w).filterMap fun x => f (y * w + x) := by
  induction h with
  | zero => simp
  | succ h ih =>
    rw [Nat.mul_succ, List.range_add, List.filterMap_append, ih, List.range_succ, List.flatMap_append]
    congr 1
    simp only [List.filterMap_map, Function.comp_def, List.flatMap_cons, List.flatMap_nil, List.append_nil, Nat.mul_comm w h]

end Sys2Proof.Machine
end

