-- ==== Sys2Proof/Laws/Turns.lean ====
section
/-! SUPPORT. The turns to come do not reach the engine: every engine effect commutes with setting them. -/

namespace Sys2Proof.Machine

variable (s : State) (ts : List Turn)

@[simp] theorem setTurns_setTurns (us : List Turn) : setTurns ts (setTurns us s) = setTurns ts s := rfl

@[simp] theorem setTurns_self : setTurns s.turns s = s := rfl

@[simp] theorem halted_setTurns : halted (setTurns ts s) = halted s := rfl

@[simp] theorem busyFlag_setTurns : busyFlag (setTurns ts s) = busyFlag s := rfl

@[simp] theorem inFlight_setTurns : inFlight (setTurns ts s) = inFlight s := rfl

@[simp] theorem colourAt_setTurns (x y : Nat) : colourAt (setTurns ts s) x y = colourAt s x y := rfl

@[simp] theorem program_setTurns : program (setTurns ts s) = program s := rfl

@[simp] theorem beginRun_setTurns : beginRun (setTurns ts s) = setTurns ts (beginRun s) := rfl

@[simp] theorem instrLoad_setTurns (i : Instr) : instrLoad i (setTurns ts s) = setTurns ts (instrLoad i s) := by
  cases i <;> rfl

@[simp] theorem instrColour_setTurns (i : Instr) : instrColour i (setTurns ts s) = instrColour i s := by
  cases i <;> rfl

@[simp] theorem setupStep_setTurns : setupStep (setTurns ts s) = setTurns ts (setupStep s) := by
  rcases setupStep_cases s with ⟨h, z, e⟩ | ⟨h, z, e⟩ | ⟨h, z, e⟩
  · rw [e]; simp only [setupStep, setTurns_width, setTurns_height, h, if_true, setTurns_zdim, z]; rfl
  · rw [e]; simp only [setupStep, setTurns_width, setTurns_height, h, if_true, setTurns_zdim, z]; rfl
  · rw [e]; simp only [setupStep, setTurns_width, setTurns_height, h, z, or_self, if_false]; rfl

@[simp] theorem advance_setTurns : advance (setTurns ts s) = setTurns ts (advance s) := by
  rcases advance_cases s with ⟨h, e⟩ | ⟨h, k, e⟩ | ⟨h, k, e⟩ <;> rw [e] <;> unfold advance
  · simp only [setTurns_x, setTurns_width, h, if_true]; rfl
  · simp only [setTurns_x, setTurns_width, setTurns_y, setTurns_height, h, k, if_true, if_false]; rfl
  · simp only [setTurns_x, setTurns_width, setTurns_y, setTurns_height, h, k, if_false]; rfl

@[simp] theorem renderStep_setTurns (c : Colour) : renderStep c (setTurns ts s) = setTurns ts (renderStep c s) := by
  unfold renderStep
  rw [← advance_setTurns]
  rfl

@[simp] theorem headerStep_setTurns : headerStep (setTurns ts s) = setTurns ts (headerStep s) := by
  unfold headerStep
  by_cases h : s.len < hdrLen
  · simp only [setTurns_len, h, if_true]; rfl
  · simp only [setTurns_len, h, if_false]; rfl

/-- An outcome with the turns set. -/
def outcomeSetTurns (ts : List Turn) : Host.Outcome State Fault Refusal → Host.Outcome State Fault Refusal
  | .next t => .next (setTurns ts t)
  | .fault f => .fault f
  | .refused r => .refused r

theorem exec_setTurns (i : Instr) : exec i (setTurns ts s) = outcomeSetTurns ts (exec i s) := by
  rw [exec_eq_instrStep, exec_eq_instrStep]
  unfold instrStep
  simp only [setTurns_phase]
  cases s.phase <;> (simp [outcomeSetTurns]; try rfl)

theorem noInstrStep_setTurns : noInstrStep (setTurns ts s) = outcomeSetTurns ts (noInstrStep s) := by
  unfold noInstrStep
  simp only [setTurns_phase]
  cases s.phase <;> (simp [outcomeSetTurns]; try rfl)

/-- The engine's move is the same whatever turns are to come. -/
theorem engineMove_setTurns : engineMove (setTurns ts s) = outcomeSetTurns ts (engineMove s) := by
  unfold engineMove
  rw [inFlight_setTurns]
  cases inFlight s with
  | none => exact noInstrStep_setTurns s ts
  | some i => exact exec_setTurns s ts i

end Sys2Proof.Machine
end

