-- ==== Sys2Proof/Tests/Slice0.lean ====
section
/-! SUPPORT. Tests of one step each, their expected results from spec/95_test_vectors.md and the rules named, and the
witnesses that the hypotheses of the obligations can be met, at the ends of their ranges. -/

namespace Sys2Proof.Tests

open Sys2Proof.Machine

/-! ## Builders of small states -/

/-- A command in HEADER. -/
def hdr (bs : List Byte) : State := loadAndBegin bs State.reset

/-- The same command in DISPATCH, header loaded. -/
def dsp (bs : List Byte) : State := headerStep (hdr bs)

/-- In SETUP, payload loaded. -/
def stp (bs : List Byte) : State := dispatchStep (dsp bs)

/-- In RENDER at the first pixel (or halted, if a dimension is zero). -/
def rnd (bs : List Byte) : State := setupStep (stp bs)

/-- In RENDER at the pixel (`x`, `y`). -/
def rndAt (bs : List Byte) (x y : Half) : State := { rnd bs with x := x, y := y }

/-- A state with one host action to come. -/
def turn (a : HostAction) (s : State) : State := { s with turns := [.host a] }

/-- The next state, if there is one. -/
def nextOf (o : Host.Outcome State Fault Refusal) : Option State :=
  match o with
  | .next t => some t
  | .fault _ => none
  | .refused _ => none

/-- The pixel stored by the next step, with its index. -/
def stored (s : State) : Option Colour := (nextOf (step s)).bind fun t => Memory.read t.pix (pixIndex s)

def solid11 : List Byte := [0x00#8, 0x01#8, 0x00#8, 0x01#8, 0x01#8, 0x0A#8, 0x14#8, 0x1E#8]
def vgrad25 : List Byte := [0x00#8, 0x02#8, 0x00#8, 0x05#8, 0x02#8, 0x00#8, 0xFF#8, 0x0A#8, 0xFF#8, 0x00#8, 0x0D#8]
def hgrad44 : List Byte := [0x00#8, 0x04#8, 0x00#8, 0x04#8, 0x03#8, 0x00#8, 0x00#8, 0x00#8, 0xFF#8, 0xFF#8, 0xFF#8]
def checker16 : List Byte := [0x00#8, 0x10#8, 0x00#8, 0x10#8, 0x04#8, 0xFF#8, 0x00#8, 0x00#8, 0x00#8, 0x00#8, 0xFF#8]
def zeroWidth : List Byte := [0x00#8, 0x00#8, 0x00#8, 0x05#8, 0x01#8, 0x0A#8, 0x14#8, 0x1E#8]

/-- `DONE` after the 1 x 1 image of `solid11` (95 section 2.4). -/
def done11 : State := renderStep ⟨10#8, 20#8, 30#8⟩ (rnd solid11)

/-- `ERROR` after an unknown mode (95 S9). -/
def error99 : State := dispatchStep (dsp [0x00#8, 0x01#8, 0x00#8, 0x01#8, 0x63#8, 0x00#8, 0x00#8, 0x00#8])

/-! ## WellFormed: every check refuses its ill-formed term (R71) -/

theorem test_wf_accepts_bounds : SourceProgram.wf ⟨.solid 0 65535 0 255 7, [0, 255]⟩ = true := by decide
theorem test_wf_refuses_width : SourceProgram.wf ⟨.solid 65536 1 0 0 0, []⟩ = false := by decide
theorem test_wf_refuses_negative_width : SourceProgram.wf ⟨.hgrad (-1) 1 0 0 0 0 0 0, []⟩ = false := by decide
theorem test_wf_refuses_height : SourceProgram.wf ⟨.vgrad 1 65536 0 0 0 0 0 0, []⟩ = false := by decide
theorem test_wf_refuses_negative_height : SourceProgram.wf ⟨.solid 1 (-1) 0 0 0, []⟩ = false := by decide
theorem test_wf_refuses_solid_channel : SourceProgram.wf ⟨.solid 1 1 0 0 256, []⟩ = false := by decide
theorem test_wf_refuses_vgrad_channel : SourceProgram.wf ⟨.vgrad 1 1 0 0 0 0 256 0, []⟩ = false := by decide
theorem test_wf_refuses_hgrad_channel : SourceProgram.wf ⟨.hgrad 1 1 0 (-1) 0 0 0 0, []⟩ = false := by decide
theorem test_wf_refuses_checker_channel : SourceProgram.wf ⟨.checker 1 1 256 0 0 0 0 0, []⟩ = false := by decide
theorem test_wf_refuses_raw_byte : SourceProgram.wf ⟨.bytes [0, 256], []⟩ = false := by decide
theorem test_wf_refuses_trail_byte : SourceProgram.wf ⟨.bytes [0], [-1]⟩ = false := by decide

/-! ## Decode: words written out bit by bit from R62, R63 and the opcode table -/

/-- 100 x 50 red: width 0000000001100100, height 0000000000110010, mode 00000001, then 11111111 00000000 00000000. -/
theorem test_decode_solid : decode [0b00000000#8, 0b01100100#8, 0b00000000#8, 0b00110010#8, 0b00000001#8, 0b11111111#8,
    0b00000000#8, 0b00000000#8] = .ok (.solid 100#16 50#16 255#8 0#8 0#8, []) := by decide
theorem test_decode_vgrad : decode [0b00000000#8, 0b00000010#8, 0b00000000#8, 0b00000101#8, 0b00000010#8, 0b00000001#8,
    0b00000010#8, 0b00000011#8, 0b00000100#8, 0b00000101#8, 0b00000110#8] =
    .ok (.vgrad 2#16 5#16 1#8 2#8 3#8 4#8 5#8 6#8, []) := by decide
theorem test_decode_hgrad : decode [0b00000001#8, 0b00000000#8, 0b00000000#8, 0b00000001#8, 0b00000011#8, 0b00000001#8,
    0b00000010#8, 0b00000011#8, 0b00000100#8, 0b00000101#8, 0b00000110#8, 0b11111111#8] =
    .ok (.hgrad 256#16 1#16 1#8 2#8 3#8 4#8 5#8 6#8, [0xFF#8]) := by decide
theorem test_decode_checker : decode [0b00010010#8, 0b00110100#8, 0b10101011#8, 0b11001101#8, 0b00000100#8, 0b00000001#8,
    0b00000010#8, 0b00000011#8, 0b00000100#8, 0b00000101#8, 0b00000110#8] =
    .ok (.checker 4660#16 43981#16 1#8 2#8 3#8 4#8 5#8 6#8, []) := by decide
theorem test_decode_rejects : decode [0x00#8, 0x04#8, 0x00#8, 0x04#8] = .error .truncatedHeader ∧
    decode [0x00#8, 0x01#8, 0x00#8, 0x01#8, 0x00#8] = .error .unknownMode ∧
    decode [0x00#8, 0x01#8, 0x00#8, 0x01#8, 0x05#8, 0x00#8, 0x00#8, 0x00#8] = .error .unknownMode ∧
    decode [0x00#8, 0x05#8, 0x00#8, 0x05#8, 0x01#8, 0x0A#8, 0x14#8] = .error .payloadTooShort ∧
    decode [0x00#8, 0x05#8, 0x00#8, 0x05#8, 0x02#8, 0x0A#8, 0x14#8, 0x1E#8, 0x28#8, 0x32#8] = .error .payloadTooShort := by
  decide
/-- The table's words: `match` of each row alone, and the two examples of R71 as numbers (R65). -/
theorem test_table_words : decodeTableWord 64 0x0064003201FF0000 = some (.solid 100#16 50#16 255#8 0#8 0#8) ∧
    decodeTableWord 32 0x01000000 = some (.solid 0#16 0#16 0#8 0#8 0#8) ∧
    decodeTableWord 88 0x0004000403000000FFFFFF = some (.hgrad 4#16 4#16 0#8 0#8 0#8 255#8 255#8 255#8) ∧
    decodeTableWord 56 0x02000000000000 = some (.vgrad 0#16 0#16 0#8 0#8 0#8 0#8 0#8 0#8) ∧
    decodeTableWord 88 0x00000000040000000000000 = none ∧
    decodeTableWord 88 0x04000000000000 = some (.checker 0#16 0#16 0#8 0#8 0#8 0#8 0#8 0#8) := by decide

/-! ## The encoder (95 section 2.7 and R145 to R149) -/

theorem test_encode_header : encodeHeader 100 50 1 = .ok [0x00#8, 0x64#8, 0x00#8, 0x32#8, 0x01#8] ∧
    encodeHeader 1 1 99 = .ok [0x00#8, 0x01#8, 0x00#8, 0x01#8, 0x63#8] ∧
    encodeHeader 65535 0 255 = .ok [0xFF#8, 0xFF#8, 0x00#8, 0x00#8, 0xFF#8] ∧
    encodeHeader 65536 1 1 = .error .range ∧ encodeHeader 1 (-1) 1 = .error .range ∧
    encodeHeader 1 1 256 = .error .range := by decide
theorem test_encode_payload : encodePayload 1 [255, 0, 0] = .ok [0xFF#8, 0x00#8, 0x00#8] ∧
    encodePayload 4 [1, 2, 3, 4, 5, 6] = .ok [1#8, 2#8, 3#8, 4#8, 5#8, 6#8] ∧
    encodePayload 1 [256, 0, 0] = .error .range ∧ encodePayload 2 [0, 0, 0, 0, 0, -1] = .error .range ∧
    encodePayload 0 [0, 0, 0] = .error .unknownMode ∧ encodePayload 5 [] = .error .unknownMode := by decide
theorem test_assemble_hgrad : assemble ⟨.hgrad 4 4 0 0 0 255 255 255, []⟩ = .ok hgrad44 := by decide
theorem test_assemble_trail : assemble ⟨.solid 1 1 10 20 30, [0xAA]⟩ = .ok (solid11 ++ [0xAA#8]) := by decide
theorem test_assemble_out_of_range : assemble ⟨.checker 1 1 0 0 0 0 0 256, []⟩ = .error .range := by decide

/-! ## Arithmetic (95 section 2.3) -/

theorem test_interp_ties : (interp 0#8 1#8 1 2, interp 1#8 0#8 1 2, interp 0#8 5#8 1 2, interp 5#8 0#8 1 2,
    interp 0#8 255#8 1 2, interp 0#8 45#8 7 10, interp 0#8 165#8 7 10) = (1#8, 1#8, 3#8, 3#8, 128#8, 32#8, 116#8) := by
  decide
theorem test_interp_large : (interp 0#8 255#8 128 65534, interp 0#8 255#8 129 65534, interp 0#8 255#8 65533 65534,
    interp 0#8 1#8 32766 65534, interp 0#8 1#8 32767 65534, interp 255#8 0#8 65534 65534) =
    (0#8, 1#8, 255#8, 0#8, 1#8, 0#8) := by decide

/-! ## One step of each instruction -/

theorem test_solid_header : (nextOf (step (hdr [0x00#8, 0x64#8, 0x00#8, 0x32#8, 0x01#8, 0xFF#8, 0x00#8, 0x00#8]))).map
    (fun t => (t.width, t.height, t.mode, t.phase)) = some (100#16, 50#16, 1#8, .dispatch) := by decide
theorem test_solid_render : stored (rnd solid11) = some ⟨10#8, 20#8, 30#8⟩ := by decide
/-- Rows 1 and 2 of the worked example of R119. -/
theorem test_vgrad_render : stored (rndAt vgrad25 0#16 1#16) = some ⟨64#8, 191#8, 11#8⟩ ∧
    stored (rndAt vgrad25 1#16 2#16) = some ⟨128#8, 128#8, 12#8⟩ := by decide
/-- `render(2,[1,2,3,250,251,252],5,1)` (95 S6). -/
theorem test_vgrad_one_row : stored (rndAt [0x00#8, 0x05#8, 0x00#8, 0x01#8, 0x02#8, 0x01#8, 0x02#8, 0x03#8, 0xFA#8, 0xFB#8,
    0xFC#8] 4#16 0#16) = some ⟨1#8, 2#8, 3#8⟩ := by decide
/-- The example of R96: column 1, row 2, index 9. -/
theorem test_hgrad_render : stored (rndAt hgrad44 1#16 2#16) = some ⟨85#8, 85#8, 85#8⟩ ∧
    pixIndex (rndAt hgrad44 1#16 2#16) = 9 := by decide
theorem test_hgrad_last_column : stored (rndAt hgrad44 3#16 0#16) = some ⟨255#8, 255#8, 255#8⟩ ∧
    (nextOf (step (rndAt hgrad44 3#16 0#16))).map (fun t => (t.x, t.y, t.phase)) = some (0#16, 1#16, .render) := by decide
/-- 95 S7. -/
theorem test_checker_render : stored (rndAt checker16 7#16 7#16) = some ⟨255#8, 0#8, 0#8⟩ ∧
    stored (rndAt checker16 8#16 0#16) = some ⟨0#8, 0#8, 255#8⟩ ∧ stored (rndAt checker16 0#16 8#16) = some ⟨0#8, 0#8, 255#8⟩ ∧
    stored (rndAt checker16 8#16 8#16) = some ⟨255#8, 0#8, 0#8⟩ := by decide
/-- The last pixel (R97): `DONE`, the counters kept. -/
theorem test_checker_last_pixel : (nextOf (step (rndAt checker16 15#16 15#16))).map (fun t => (t.x, t.y, t.phase)) =
    some (15#16, 15#16, .done) := by decide

/-! ## Traps and the zero-dimension policy (95 section 2.2) -/

theorem test_trap_truncated : (nextOf (step (hdr [0x00#8, 0x04#8, 0x00#8, 0x04#8]))).map
    (fun t => (t.err, t.phase, t.width, t.mode)) = some (.truncatedHeader, .error, 0#16, 0#8) := by decide
theorem test_trap_unknown_mode : (nextOf (step (dsp [0x00#8, 0x00#8, 0x00#8, 0x00#8, 0x07#8]))).map
    (fun t => (t.err, t.phase, t.mode)) = some (.unknownMode, .error, 7#8) := by decide
theorem test_trap_short_payload : (nextOf (step (dsp [0x00#8, 0x00#8, 0x00#8, 0x00#8, 0x02#8, 0x01#8, 0x02#8, 0x03#8]))).map
    (fun t => (t.err, t.phase, t.c1)) = some (.payloadTooShort, .error, ⟨0#8, 0#8, 0#8⟩) := by decide
theorem test_zero_width : (nextOf (step (stp zeroWidth))).map (fun t => (t.err, t.phase, t.width, t.pix.length)) =
      some (.noError, .done, 0#16, 0) ∧
    (nextOf (step { stp zeroWidth with zdim := .reject })).map (fun t => (t.err, t.phase)) =
      some (.emptyDimension, .error) := by decide
/-- Mode 1 leaves `C2` alone, even with bytes beyond the payload (R92). -/
theorem test_trailing_bytes : (nextOf (step (dsp (solid11 ++ [0xAA#8, 0xBB#8])))).map (fun t => (t.c1, t.c2, t.phase)) =
    some (⟨10#8, 20#8, 30#8⟩, ⟨0#8, 0#8, 0#8⟩, .setup) := by decide

/-! ## The host (70 R199, 10 R22) -/

theorem test_start_from_done : (nextOf (step (turn (.writeReg 0 1) done11))).map
    (fun t => (t.phase, t.width, t.pix)) = some (.header, 0#16, []) := by decide
theorem test_start_while_busy : (nextOf (step (turn (.writeReg 0 1) (rnd hgrad44)))).map
    (fun t => (t.phase, t.width)) = some (.render, 4#16) := by decide
theorem test_reset_wins : (nextOf (step (turn (.writeReg 0 3) (rnd hgrad44)))).map
    (fun t => (t.phase, t.width, t.len)) = some (.idle, 0#16, 11) := by decide
/-- `STATUS` in RENDER is 4 + 8, in DONE 5 + 16, in ERROR 6 + 32 (R22). -/
theorem test_status : (regValue (rnd hgrad44) 3, regValue done11 3, regValue error99 3, regValue error99 4) =
    (12, 21, 38, 3) := by decide
/-- `C2` as `r ‖ g ‖ b` (R42). -/
theorem test_read_c2 : (nextOf (step (turn (.readReg 9) (rnd vgrad25)))).map (fun t => t.reply) =
    some (some (.reg 0xFF000D)) := by decide
theorem test_read_pix : (nextOf (step (turn (.readPix 0) done11))).map (fun t => t.reply) =
    some (some (.pixel ⟨10#8, 20#8, 30#8⟩)) := by decide
/-- The beat of the pixel interface (R196). -/
theorem test_beat : beat (rndAt hgrad44 1#16 2#16) = some ⟨9, 1#16, 2#16, ⟨85#8, 85#8, 85#8⟩⟩ := by decide

/-! ## Good states, at the ends of the phases -/

theorem witness_inv_idle : Inv State.reset := ⟨by decide, by decide, by decide, by decide, rfl, rfl, rfl, rfl, rfl, rfl, rfl, rfl⟩
theorem witness_inv_header : Inv (hdr solid11) := ⟨by decide, by decide, by decide, by decide, rfl, rfl, rfl, rfl, rfl, rfl, rfl, rfl⟩
theorem witness_inv_header_short : Inv (hdr [0x00#8, 0x04#8, 0x00#8, 0x04#8]) :=
  ⟨by decide, by decide, by decide, by decide, rfl, rfl, rfl, rfl, rfl, rfl, rfl, rfl⟩
theorem witness_inv_dispatch : Inv (dsp solid11) := ⟨by decide, by decide, by decide, by decide, by decide, rfl, rfl, rfl, rfl, rfl, rfl, rfl, rfl⟩
theorem witness_inv_setup : Inv (stp zeroWidth) := ⟨by decide, by decide, by decide, by decide, ⟨rfl, fun _ => rfl⟩, rfl, rfl, rfl⟩
theorem witness_inv_error : Inv error99 := ⟨by decide, by decide, by decide, by decide, rfl, rfl, rfl⟩

/-- RENDER at the first, and only, pixel. -/
theorem witness_inv_render : Inv (rnd solid11) :=
  ⟨by decide, by decide, by decide, by decide, ⟨rfl, fun _ => rfl⟩, by decide, by decide, by decide, fun x y _ h => by
    change _ < 0 at h; omega⟩

/-- `DONE` after a 1 x 1 image. -/
theorem witness_inv_done : Inv done11 :=
  ⟨by decide, by decide, by decide, by decide, ⟨rfl, fun _ => rfl⟩, ⟨by decide, fun x y hx h => by
    change x < 1 at hx; change y * 1 + x < 1 at h
    obtain rfl : x = 0 := by omega
    obtain rfl : y = 0 := by omega
    decide⟩, by decide⟩

/-- `DONE` with an empty image. -/
theorem witness_inv_done_empty : Inv (rnd zeroWidth) :=
  ⟨by decide, by decide, by decide, by decide, ⟨rfl, fun _ => rfl⟩, ⟨by decide, fun x y hx _ => by
    change x < 0 at hx; omega⟩, by decide⟩

/-- RENDER at the last pixel of a 2 x 1 image, the first one stored. -/
def last21 : State :=
  renderStep ⟨10#8, 20#8, 30#8⟩ (rnd [0x00#8, 0x02#8, 0x00#8, 0x01#8, 0x01#8, 0x0A#8, 0x14#8, 0x1E#8])

theorem witness_inv_render_last : Inv last21 :=
  ⟨by decide, by decide, by decide, by decide, ⟨rfl, fun _ => rfl⟩, by decide, by decide, by decide, fun x y hx h => by
    change y * 2 + x < 1 at h
    obtain rfl : x = 0 := by omega
    obtain rfl : y = 0 := by omega
    decide⟩

/-! ## Witnesses: for each obligation with hypotheses, states and operands that meet them, clause by clause -/

theorem witness_HardwareResetFromEveryState : (turn .hardwareReset last21).turns = [.host .hardwareReset] := rfl
theorem witness_HostReadsRegisters_writes : (turn (.writeReg 3 1) done11).turns = [.host (.writeReg 3 1)] ∧ 3 ≤ 3 ∧
    (turn (.writeReg 12 1) done11).turns = [.host (.writeReg 12 1)] ∧ 3 ≤ 12 := by decide
/-- Every register number of R22, and the first two that do not exist: the value read is the rule's. -/
theorem witness_HostReadsRegisters_reads :
    (List.range 14).map (fun n => (nextOf (step (turn (.readReg n) (rndAt vgrad25 1#16 4#16)))).map (·.reply)) =
      [0, 0, 11, 12, 0, 2, 5, 2, 0x00FF0A, 0xFF000D, 1, 4, 0, 0].map (fun v => some (some (.reg v))) := by decide
theorem witness_HostReads_hypothesis : ∀ n ∈ List.range 14, (turn (.readReg n) done11).turns = [.host (.readReg n)] := by
  decide
theorem witness_HaltedHostWritesAreStored : halted State.reset = true ∧ halted done11 = true ∧ halted error99 = true ∧
    (turn (.writeReg 2 0) error99).turns = [.host (.writeReg 2 0)] ∧
    (nextOf (step (turn (.writeReg 2 8) error99))).map (·.len) = some 8 ∧
    (nextOf (step (turn (.writeReg 1 255) done11))).map (·.zdim) = some .reject ∧
    (nextOf (step (turn (.writeReg 1 254) done11))).map (·.zdim) = some .emitEmpty ∧
    (nextOf (step (turn (.writeCmd 0 7#8) done11))).map (fun t => Memory.read t.cmd 0) = some (some 7#8) := by decide
theorem witness_ModeWritten_header :
    (hdr solid11).phase = .header ∧ (nextOf (step (hdr solid11))).map (·.mode) = some 1#8 ∧ (hdr solid11).mode = 0#8 := by
  decide
theorem witness_ModeWritten_strobes :
    (nextOf (step (turn (.writeReg 0 1) done11))).map (·.mode) = some 0#8 ∧
    (nextOf (step (turn (.writeReg 0 2) last21))).map (·.mode) = some 0#8 ∧
    (nextOf (step (turn .hardwareReset last21))).map (·.mode) = some 0#8 ∧ done11.mode = 1#8 ∧ last21.mode = 1#8 := by
  decide
/-- Inside RENDER, and from the last pixel to DONE; the two states meet `Inv` by the next theorem and by
`witness_inv_render_last`. -/
theorem witness_ScanCounters :
    (nextOf (step (rnd [0x00#8, 0x02#8, 0x00#8, 0x01#8, 0x01#8, 0x0A#8, 0x14#8, 0x1E#8]))).map
      (fun t => (t.phase, t.x, t.y)) = some (.render, 1#16, 0#16) ∧
    (nextOf (step last21)).map (fun t => (t.phase, t.x, t.y)) = some (.done, 1#16, 0#16) := by decide
theorem witness_ScanCounters_inv : Inv (rnd [0x00#8, 0x02#8, 0x00#8, 0x01#8, 0x01#8, 0x0A#8, 0x14#8, 0x1E#8]) :=
  ⟨by decide, by decide, by decide, by decide, ⟨rfl, fun _ => rfl⟩, by decide, by decide, by decide, fun x y _ h => by
    change _ < 0 at h; omega⟩
/-- First pixel and last pixel. -/
theorem witness_EachPixelWrittenOnceInOrder : (Inv (rnd solid11) ∧ (rnd solid11).phase = .render) ∧
    Inv last21 ∧ last21.phase = .render := ⟨⟨witness_inv_render, by decide⟩, witness_inv_render_last, by decide⟩
theorem witness_EngineNeverWritesItsInputs : (hdr solid11).turns = [] ∧ (nextOf (step (hdr solid11))).isSome = true := by
  decide
/-- Two states that differ in the byte at offset 11 only. -/
theorem witness_EngineReadsOnlyEleven :
    (hdr (vgrad25 ++ [1#8])).turns = [] ∧ (hdr (vgrad25 ++ [2#8])).turns = [] ∧
    SameEngine (hdr (vgrad25 ++ [1#8])) (hdr (vgrad25 ++ [2#8])) ∧
    (hdr (vgrad25 ++ [1#8])).zdim = (hdr (vgrad25 ++ [2#8])).zdim ∧
    (hdr (vgrad25 ++ [1#8])).len = (hdr (vgrad25 ++ [2#8])).len ∧
    (∀ i, i < (hdr (vgrad25 ++ [1#8])).len → i < 11 →
      cmdByte (hdr (vgrad25 ++ [1#8])) i = cmdByte (hdr (vgrad25 ++ [2#8])) i) ∧
    (nextOf (step (hdr (vgrad25 ++ [1#8])))).isSome = true :=
  ⟨rfl, rfl, ⟨rfl, rfl, rfl, rfl, rfl, rfl, rfl, rfl, rfl, rfl⟩, rfl, rfl, fun i _ h => by
    have : ∀ j ∈ List.range 11, cmdByte (hdr (vgrad25 ++ [1#8])) j = cmdByte (hdr (vgrad25 ++ [2#8])) j := by decide
    exact this i (List.mem_range.mpr h), by decide⟩
/-- The fault clause: a RENDER step with an invalid mode, which no good state is. -/
theorem witness_EngineReadsOnlyEleven_fault :
    step { State.reset with phase := .render } = .fault .noColourRule ∧ ({ State.reset with phase := .render } : State).turns = [] :=
  ⟨rfl, rfl⟩
theorem witness_DecodedBytesAreTheEncoding : decode (solid11 ++ [0xAA#8]) = .ok (.solid 1#16 1#16 10#8 20#8 30#8, [0xAA#8]) := by
  decide
theorem witness_EncodeHeader : ((65536 : Int) < 0 ∨ (65535 : Int) < 65536) ∧ encodeHeader 65535 65535 0 =
    .ok [0xFF#8, 0xFF#8, 0xFF#8, 0xFF#8, 0x00#8] ∧ encodeHeader 0 0 256 = .error .range := by decide
theorem witness_EncodePayload : ((1 : Int) = 1 ∧ [(0 : Int), 255, 256].length = 3 ∧ (255 : Int) < 256) ∧
    ((4 : Int) = 4 ∧ [(0 : Int), 0, 0, 0, 0, 255].length = 6) ∧ ¬ ((0 : Int) = 1 ∨ (0 : Int) = 2 ∨ (0 : Int) = 3 ∨ (0 : Int) = 4) := by
  decide
theorem witness_HeaderRoundTrip : encodeHeader 65535 0 255 = .ok [0xFF#8, 0xFF#8, 0x00#8, 0x00#8, 0xFF#8] ∧
    (hdr [0xFF#8, 0xFF#8, 0x00#8, 0x00#8, 0xFF#8, 0x07#8]).turns = [] ∧
    (hdr [0xFF#8, 0xFF#8, 0x00#8, 0x00#8, 0xFF#8, 0x07#8]).phase = .header ∧
    program (hdr [0xFF#8, 0xFF#8, 0x00#8, 0x00#8, 0xFF#8, 0x07#8]) = [0xFF#8, 0xFF#8, 0x00#8, 0x00#8, 0xFF#8] ++ [0x07#8] := by
  decide
theorem witness_StepRuns_header : (hdr solid11).turns = [] ∧ (hdr solid11).phase = .header ∧
    decode (command (hdr solid11)) = .ok (.solid 1#16 1#16 10#8 20#8 30#8, []) := by decide
theorem witness_StepRuns_dispatch : (dsp checker16).turns = [] ∧ (dsp checker16).phase = .dispatch ∧
    decodeBody (dsp checker16).width (dsp checker16).height (dsp checker16).mode (payload (dsp checker16)) =
      .ok (.checker 16#16 16#16 255#8 0#8 0#8 0#8 0#8 255#8, []) := by decide
theorem witness_StepRuns_setup_render : (stp vgrad25).phase = .setup ∧ (rnd hgrad44).phase = .render ∧
    latchedInstr (stp vgrad25) = some (.vgrad 2#16 5#16 0#8 255#8 10#8 255#8 0#8 13#8) ∧
    latchedInstr (rnd hgrad44) = some (.hgrad 4#16 4#16 0#8 0#8 0#8 255#8 255#8 255#8) := by decide
theorem witness_FetchWordRunsNext : decodeTableWord 64 0x0064003201FF0000 = some (.solid 100#16 50#16 255#8 0#8 0#8) ∧
    nextOf (step (State.reset.withFetchWord 64 0x0064003201FF0000)) =
      nextOf (exec (.solid 100#16 50#16 255#8 0#8 0#8) (State.reset.withFetchWord 64 0x0064003201FF0000)) := by decide
theorem witness_EngineTurn : ({ hdr solid11 with turns := [.engine, .engine] } : State).turns = .engine :: [.engine] := rfl
theorem witness_ExecInHeader : (hdr solid11).phase = .header := by decide
theorem witness_ExecInDispatch : (dsp vgrad25).phase = .dispatch := by decide
theorem witness_ExecInSetup : (stp zeroWidth).phase = .setup ∧ (stp zeroWidth).width = 0#16 ∧
    (stp zeroWidth).zdim = .emitEmpty ∧ (stp solid11).width ≠ 0#16 ∧ (stp solid11).height ≠ 0#16 ∧
    ({ stp zeroWidth with zdim := .reject } : State).zdim = .reject ∧
    (stp [0x00#8, 0x05#8, 0x00#8, 0x00#8, 0x04#8, 0x01#8, 0x02#8, 0x03#8, 0x04#8, 0x05#8, 0x06#8]).height = 0#16 := by decide
theorem witness_Renders : (rnd solid11).phase = .render ∧ (rndAt vgrad25 1#16 4#16).phase = .render ∧
    (rndAt hgrad44 3#16 3#16).phase = .render ∧ (rndAt checker16 15#16 15#16).phase = .render := by decide
theorem witness_HaltedEngine : State.reset.phase = .idle ∧ done11.phase = .done ∧ error99.phase = .error ∧
    done11.turns = [] := by decide
theorem witness_HeaderStep : (hdr [0x00#8, 0x04#8, 0x00#8, 0x04#8]).len < 5 ∧
    5 ≤ (hdr [0x00#8, 0x04#8, 0x00#8, 0x04#8, 0x03#8]).len ∧ (hdr [0x00#8, 0x04#8, 0x00#8, 0x04#8, 0x03#8]).phase = .header ∧
    (hdr [0x00#8, 0x04#8, 0x00#8, 0x04#8]).phase = .header := by decide
theorem witness_DispatchStep_traps : error99.mode.toNat ∉ [1, 2, 3, 4] ∧
    (dsp (solid11.take 7)).mode = 1#8 ∧ (dsp (solid11.take 7)).len < 8 ∧ (dsp (solid11.take 7)).phase = .dispatch ∧
    (dsp (checker16.take 10)).mode = 4#8 ∧ (dsp (checker16.take 10)).len < 11 ∧ (dsp (checker16.take 10)).phase = .dispatch := by
  decide
theorem witness_DispatchStep_loads : (dsp solid11).mode = 1#8 ∧ 8 ≤ (dsp solid11).len ∧ (dsp vgrad25).mode = 2#8 ∧
    11 ≤ (dsp vgrad25).len ∧ (dsp hgrad44).mode = 3#8 ∧ (dsp checker16).mode = 4#8 := by decide
theorem witness_TrapEntry : (hdr (solid11.take 4)).turns = [] ∧ (hdr (solid11.take 4)).phase ≠ .error ∧
    (nextOf (step (hdr (solid11.take 4)))).map (·.phase) = some .error ∧
    (nextOf (step (dsp (solid11.take 7)))).map (·.phase) = some .error ∧
    (nextOf (step { stp zeroWidth with zdim := .reject })).map (·.phase) = some .error := by decide
theorem witness_TrapLeavesNoPixels : Inv (hdr [0x00#8, 0x04#8, 0x00#8, 0x04#8]) ∧
    (nextOf (step (hdr [0x00#8, 0x04#8, 0x00#8, 0x04#8]))).map (·.phase) = some .error :=
  ⟨witness_inv_header_short, by decide⟩
theorem witness_OnlyStartOrReset : error99.phase = .error ∧
    (nextOf (step (turn (.writeReg 0 1) error99))).map (·.phase) = some .header ∧
    (nextOf (step (turn (.writeReg 0 2) error99))).map (·.phase) = some .idle ∧
    (nextOf (step (turn (.writeReg 0 3) error99))).map (·.phase) = some .idle ∧
    (nextOf (step (turn .hardwareReset error99))).map (·.phase) = some .idle := by decide
theorem witness_ErrorPriority :
    (solid11.take 4).length < 5 ∧
    (5 ≤ [0x00#8, 0x00#8, 0x00#8, 0x00#8, 0x07#8].length ∧ reqLen (byteAt [0x00#8, 0x00#8, 0x00#8, 0x00#8, 0x07#8] 4) = none) ∧
    (reqLen (byteAt (vgrad25.take 10) 4) = some 6 ∧ (vgrad25.take 10).length < 5 + 6) ∧
    (reqLen (byteAt zeroWidth 4) = some 3 ∧ 5 + 3 ≤ zeroWidth.length ∧ byteAt zeroWidth 0 = 0#8 ∧ byteAt zeroWidth 1 = 0#8) := by
  decide
theorem witness_EveryBeat : (rndAt hgrad44 1#16 2#16).turns = [] ∧ (beat (rndAt hgrad44 1#16 2#16)).isSome = true := by decide
theorem witness_Interp_third_form : (0 < 2 ∧ 1 ≤ 2 ∧ interpNum 0#8 1#8 1 2 = ((0 * 2 + 1 : Nat) : Int) ∧ 1 < 2) ∧
    interpNum 0#8 255#8 1 3 = ((85 * 3 + 0 : Nat) : Int) := by decide
theorem witness_Interp_monotone : (1 ≤ 1 ∧ 0 ≤ 1 ∧ 1 ≤ 1 ∧ (7#8 : Byte).toNat ≤ (200#8 : Byte).toNat) ∧
    interp 7#8 200#8 0 1 = 7#8 ∧ interp 7#8 200#8 1 1 = 200#8 ∧ interp 200#8 7#8 1 1 = 7#8 := by decide
/-- Position and denominator at both ends, for InterpZeroDenominatorAndEndpoints, InterpStaysBetweenItsEnds,
InterpConstantAndMirror (two rows, row 1) and InterpDatapathWidths. -/
theorem witness_Interp_ranges : (0 ≤ 0 ∧ 1 ≤ 1 ∧ 1 ≤ 65534 ∧ 65534 ≤ 65534 ∧ 2 ≤ 2 ∧ 1 < 2) ∧ interpNum 255#8 255#8 65534 65534 = 16711170 ∧
    interpNum 255#8 0#8 65534 65534 = 0 := by decide
theorem witness_StartClearsAndBegins : (turn (.writeReg 0 1) error99).turns = [.host (.writeReg 0 1)] ∧ 1 % 2 = 1 ∧
    1 / 2 % 2 = 0 ∧ busyFlag (turn (.writeReg 0 1) error99) = false ∧ busyFlag (turn (.writeReg 0 1) last21) = true := by decide
theorem witness_ResetCommand : (turn (.writeReg 0 2) last21).turns = [.host (.writeReg 0 2)] ∧ 2 / 2 % 2 = 1 ∧
    3 / 2 % 2 = 1 ∧ 0 / 2 % 2 = 0 ∧ 252 / 2 % 2 = 0 ∧ 252 % 2 = 0 := by decide
theorem witness_BusyHostWrites : busyFlag (turn (.writeReg 1 1) (hdr solid11)) = true ∧
    busyFlag (turn (.writeCmd 0 0#8) last21) = true ∧ (turn (.writeReg 1 1) (hdr solid11)).turns = [.host (.writeReg 1 1)] ∧
    (nextOf (step (turn (.writeReg 2 3) last21))).map (·.len) = some 8 ∧
    (nextOf (step (turn (.writeCmd 0 9#8) last21))).map (fun t => Memory.read t.cmd 0) = some (some 0#8) := by decide
theorem witness_HostReadsOfTheSpaces : (done11.phase = .done ∧ 0 < done11.width.toNat * done11.height.toNat ∧
    Memory.read done11.pix 0 = some ⟨10#8, 20#8, 30#8⟩) ∧ (7 < done11.len ∧ Memory.read done11.cmd 7 = some 30#8) ∧
    (nextOf (step (turn (.readCmd 7) done11))).map (·.reply) = some (some (.byte 30#8)) := by decide
theorem witness_HostReaches : (turn (.readPix 5) last21).turns = [.host (.readPix 5)] ∧ HostAction.readPix 5 ≠ .hardwareReset ∧
    (∀ v, HostAction.readPix 5 ≠ .writeReg 0 v) ∧ busyFlag (turn (.writeReg 0 1) last21) = true ∧
    (∀ v, v / 2 % 2 = 1 → HostAction.writeReg 0 1 ≠ .writeReg 0 v) :=
  ⟨rfl, by decide, fun v h => HostAction.noConfusion h, by decide, fun v hv h => by cases h; simp at hv⟩
theorem witness_DoneImage : (Inv done11 ∧ done11.phase = .done) ∧ Inv (rnd zeroWidth) ∧ (rnd zeroWidth).phase = .done :=
  ⟨⟨witness_inv_done, by decide⟩, witness_inv_done_empty, by decide⟩
theorem witness_EveryStepKeepsTheInvariant : Inv (dsp solid11) ∧ (nextOf (step (dsp solid11))).isSome = true ∧
    Inv error99 ∧ (nextOf (step (turn (.writeReg 0 1) error99))).isSome = true :=
  ⟨witness_inv_dispatch, by decide, witness_inv_error, by decide⟩
theorem witness_RunIsTheWholeRunFunction : State.reset.turns = [] ∧ done11.turns = [] ∧ runSteps (program done11) = 4 ∧
    wholeRun (program done11) .emitEmpty = .ok ⟨1, 1, [⟨10#8, 20#8, 30#8⟩]⟩ := by decide
/-- Two different states with the same inputs. -/
theorem witness_RunsDependOnTheirInputsOnly : done11.turns = [] ∧ (hdr solid11).turns = [] ∧
    SameInputs done11 (hdr solid11) ∧ done11.pix ≠ (hdr solid11).pix := ⟨rfl, rfl, ⟨by decide, rfl⟩, by decide⟩
theorem witness_TrailingBytesDoNotMatter : (hdr solid11).turns = [] ∧ reqLen (byteAt solid11 4) = some 3 ∧
    solid11.length = 5 + 3 ∧ program (hdr (solid11 ++ [0xAA#8, 0xBB#8])) = solid11 ++ [0xAA#8, 0xBB#8] ∧
    program (hdr solid11) = encode (.solid 1#16 1#16 10#8 20#8 30#8) ++ [] ∧
    program (hdr (solid11 ++ [0xAA#8, 0xBB#8])) = encode (.solid 1#16 1#16 10#8 20#8 30#8) ++ [0xAA#8, 0xBB#8] ∧
    (hdr solid11).zdim = (hdr (solid11 ++ [0xAA#8, 0xBB#8])).zdim := by decide

end Sys2Proof.Tests
end

/-! SUPPORT. An engine step reads of the host's side only the command bytes and the policy, and writes none of it
(00_scope.md R2, R8). Both come from one law: engine effects commute with moving an engine onto another host side. -/

namespace Sys2Proof.Machine

/-! ## SETUP on a zero dimension, an equation per policy (R94) -/

section
variable {s : State} (hd : s.width = 0#16 ∨ s.height = 0#16)
include hd

theorem setupStep_of_reject (hz : s.zdim = .reject) : setupStep s = trapEntry .emptyDimension s := by
  rw [setupStep, if_pos hd, hz]

theorem setupStep_of_emitEmpty (hz : s.zdim = .emitEmpty) : setupStep s = { s with phase := .done } := by
  rw [setupStep, if_pos hd, hz]

end

/-! ## An engine on another host side -/

/-- The state the engine writes (R24), taken from `s`, on the host side of `h`. -/
def withEngineOf (h s : State) : State :=
  { h with width := s.width, height := s.height, mode := s.mode, c1 := s.c1, c2 := s.c2, x := s.x, y := s.y,
           phase := s.phase, err := s.err, pix := s.pix }

variable (h s : State)

theorem sameEngine_withEngineOf : SameEngine s (withEngineOf h s) := by simp [SameEngine, withEngineOf]

@[simp] theorem withEngineOf_self : withEngineOf s s = s := rfl
@[simp] theorem withEngineOf_width : (withEngineOf h s).width = s.width := rfl
@[simp] theorem withEngineOf_height : (withEngineOf h s).height = s.height := rfl
@[simp] theorem withEngineOf_mode : (withEngineOf h s).mode = s.mode := rfl
@[simp] theorem withEngineOf_x : (withEngineOf h s).x = s.x := rfl
@[simp] theorem withEngineOf_y : (withEngineOf h s).y = s.y := rfl
@[simp] theorem withEngineOf_phase : (withEngineOf h s).phase = s.phase := rfl
@[simp] theorem withEngineOf_len : (withEngineOf h s).len = h.len := rfl
@[simp] theorem withEngineOf_zdim : (withEngineOf h s).zdim = h.zdim := rfl
@[simp] theorem withEngineOf_turns : (withEngineOf h s).turns = h.turns := rfl
@[simp] theorem command_withEngineOf : command (withEngineOf h s) = command h := rfl
@[simp] theorem payload_withEngineOf : payload (withEngineOf h s) = payload h := rfl
@[simp] theorem latchedInstr_withEngineOf : latchedInstr (withEngineOf h s) = latchedInstr s := rfl

theorem instrLoad_withEngineOf (i : Instr) : instrLoad i (withEngineOf h s) = withEngineOf h (instrLoad i s) := by
  cases i <;> rfl

theorem instrColour_withEngineOf (i : Instr) : instrColour i (withEngineOf h s) = instrColour i s := by
  cases i <;> rfl

theorem advance_withEngineOf : advance (withEngineOf h s) = withEngineOf h (advance s) := by
  rcases advance_cases s with ⟨hx, e⟩ | ⟨hx, hy, e⟩ | ⟨hx, hy, e⟩ <;> rw [e]
  · exact if_pos hx
  · exact (if_neg hx).trans (if_pos hy)
  · exact (if_neg hx).trans (if_neg hy)

theorem renderStep_withEngineOf (c : Colour) :
    renderStep c (withEngineOf h s) = withEngineOf h (renderStep c s) :=
  advance_withEngineOf h (writePix (pixIndex s) c s)

/-! ## What the engine reads of the host's side -/

/-- The payload is what the header leaves of the command (R82). -/
theorem payload_eq_drop_command : payload s = (command s).drop 5 := by
  rcases Nat.lt_or_ge s.len 5 with hlen | hlen
  · have hp : (payload s).length = 0 := by rw [payload_length]; omega
    have hc : (command s).length ≤ 5 := by rw [command_length]; omega
    rw [List.eq_nil_of_length_eq_zero hp, List.drop_eq_nil_of_le hc]
  · rw [command_eq s hlen]; rfl

/-- Equal programs have equal commands. -/
theorem command_eq_of_program_eq {h s : State} (hp : program h = program s) : command h = command s := by
  rw [command_eq_take, command_eq_take, hp]

variable {h s} (hcmd : command h = command s)
include hcmd

theorem inFlight_withEngineOf : inFlight (withEngineOf h s) = inFlight s := by
  have hpay : payload h = payload s := by rw [payload_eq_drop_command, hcmd, payload_eq_drop_command]
  unfold inFlight
  simp only [withEngineOf_phase, command_withEngineOf, payload_withEngineOf, latchedInstr_withEngineOf,
    withEngineOf_width, withEngineOf_height, withEngineOf_mode, hcmd, hpay]

/-- HEADER reads `LEN` up to 5 and then the first five bytes (R81), which the command determines. -/
theorem headerStep_withEngineOf : headerStep (withEngineOf h s) = withEngineOf h (headerStep s) := by
  have hlen : min h.len 11 = min s.len 11 := by rw [← command_length, hcmd, command_length]
  rcases headerStep_cases s with ⟨hs, e⟩ | ⟨hs, e⟩
  · rw [e, headerStep, if_pos (by simp only [withEngineOf_len, hdrLen]; omega)]; rfl
  · rw [e, headerStep, if_neg (by simp only [withEngineOf_len, hdrLen]; omega)]
    rw [command_eq h (by omega), command_eq s hs] at hcmd
    simp only [List.cons.injEq] at hcmd
    obtain ⟨h0, h1, h2, h3, h4, -⟩ := hcmd
    simp only [cmdHalf, ← h0, ← h1, ← h2, ← h3, ← h4]
    rfl

omit hcmd
variable (hz : h.zdim = s.zdim)
include hz

/-- SETUP reads the policy (R94). -/
theorem setupStep_withEngineOf : setupStep (withEngineOf h s) = withEngineOf h (setupStep s) := by
  rcases setupStep_cases s with ⟨hd, z, e⟩ | ⟨hd, z, e⟩ | ⟨hw, hh, e⟩ <;> rw [e]
  · exact setupStep_of_reject hd (hz.trans z)
  · exact setupStep_of_emitEmpty hd (hz.trans z)
  · exact if_neg (not_or.mpr ⟨hw, hh⟩)

theorem exec_withEngineOf {t : State} (i : Instr) (ht : exec i s = .next t) :
    exec i (withEngineOf h s) = .next (withEngineOf h t) := by
  rw [exec_eq_instrStep] at ht ⊢
  cases ht
  unfold instrStep
  rw [withEngineOf_phase, setupStep_withEngineOf hz, instrLoad_withEngineOf, instrColour_withEngineOf,
    renderStep_withEngineOf]
  cases s.phase <;> rfl

include hcmd

theorem noInstrStep_withEngineOf {t : State} (ht : noInstrStep s = .next t) :
    noInstrStep (withEngineOf h s) = .next (withEngineOf h t) := by
  unfold noInstrStep at ht ⊢
  rw [withEngineOf_phase, setupStep_withEngineOf hz, headerStep_withEngineOf hcmd]
  cases hp : s.phase <;> rw [hp] at ht <;> cases ht <;> rfl

/-- R2, R45: an engine on another host side with the same command bytes and the same policy makes the same move. -/
theorem engineMove_withEngineOf {t : State} (ht : engineMove s = .next t) :
    engineMove (withEngineOf h s) = .next (withEngineOf h t) := by
  unfold engineMove at ht ⊢
  rw [inFlight_withEngineOf hcmd]
  cases hi : inFlight s with
  | some i => rw [hi] at ht; exact exec_withEngineOf hz i ht
  | none => rw [hi] at ht; exact noInstrStep_withEngineOf hcmd hz ht

omit hcmd hz

/-- R8, R24: an engine move leaves the host's side alone. -/
theorem engineMove_keeps_hostSide {t : State} (ht : engineMove s = .next t) : t = withEngineOf s t := by
  have hself := engineMove_withEngineOf (h := s) rfl rfl ht
  rw [withEngineOf_self, ht] at hself
  exact Host.Outcome.next.inj hself

/-! ## The engine of a run never stops -/

/-- Once DISPATCH has accepted the mode (R90), `MODE` names a rule. -/
def ModeChecked (s : State) : Prop := s.phase = .setup ∨ s.phase = .render → (reqLen s.mode).isSome

/-- A body that decodes has a mode with a required length. -/
theorem reqLen_isSome_of_decodeBody {w ht : Half} {m : Byte} {bs : List Byte} {i : Instr}
    (hd : decoded (decodeBody w ht m bs) = some i) : (reqLen m).isSome := by
  rcases reqLen_cases m with ⟨-, hr⟩ | ⟨-, hr⟩ | ⟨⟨h1, h2, h3, h4⟩, -⟩
  · rw [hr]; rfl
  · rw [hr]; rfl
  · simp [decodeBody, h1, h2, h3, h4, decoded] at hd

/-- A mode with a required length has an instruction in the operand registers. -/
theorem latchedInstr_isSome (hm : (reqLen s.mode).isSome) : (latchedInstr s).isSome := by
  unfold latchedInstr
  rcases reqLen_cases s.mode with ⟨h1, -⟩ | ⟨h1 | h1 | h1, -⟩ | ⟨-, hr⟩
  · simp [h1]
  · simp [h1]
  · simp [h1]
  · simp [h1]
  · rw [hr] at hm; cases hm

theorem modeChecked_of_phase (h1 : s.phase ≠ .setup) (h2 : s.phase ≠ .render) : ModeChecked s :=
  fun hp => absurd hp (not_or.mpr ⟨h1, h2⟩)

theorem modeChecked_setupStep (hm : (reqLen s.mode).isSome) : ModeChecked (setupStep s) := by
  intro _; rwa [setupStep_mode]

/-- Where the mode has been checked the engine moves on (R95: no run reaches the fault), and it stays checked. -/
theorem engineMove_of_modeChecked (hm : ModeChecked s) : ∃ t, engineMove s = .next t ∧ ModeChecked t := by
  unfold engineMove
  cases hi : inFlight s with
  | some i =>
    rcases exec_cases i s with ⟨hp, e⟩ | ⟨hp, e⟩ | ⟨hp, e⟩ | ⟨hp, e⟩ | ⟨-, e⟩ <;> refine ⟨_, e, ?_⟩
    · exact modeChecked_of_phase (by simp) (by simp)
    · obtain ⟨-, -, hmode, -⟩ := instrLoad_frame i s
      simp only [inFlight, hp] at hi
      intro _
      rw [hmode]
      exact reqLen_isSome_of_decodeBody hi
    · exact modeChecked_setupStep (hm (.inl hp))
    · intro _; rw [renderStep_mode]; exact hm (.inr hp)
    · exact hm
  | none =>
    simp only [noInstrStep]
    cases hp : s.phase with
    | header =>
      refine ⟨_, rfl, ?_⟩
      rcases headerStep_cases s with ⟨-, e⟩ | ⟨-, e⟩ <;> rw [e] <;> exact modeChecked_of_phase (by simp) (by simp)
    | dispatch => exact ⟨_, rfl, modeChecked_of_phase (by simp) (by simp)⟩
    | setup => exact ⟨_, rfl, modeChecked_setupStep (hm (.inl hp))⟩
    | render =>
      have hl := latchedInstr_isSome (hm (.inr hp))
      simp only [inFlight, hp] at hi
      rw [hi] at hl
      cases hl
    | idle | done | error => exact ⟨_, rfl, hm⟩

/-- Two engines in the same state, with the same command bytes and policy and no host turn pending, run alike. -/
theorem runFor_withEngineOf (k : Nat) {h s : State} (hcmd : command h = command s) (hz : h.zdim = s.zdim)
    (hh : h.turns = []) (hs : s.turns = []) (hm : ModeChecked s) :
    ∃ t, runFor k s = .next t ∧ runFor k (withEngineOf h s) = .next (withEngineOf h t) := by
  induction k generalizing s with
  | zero => exact ⟨s, rfl, rfl⟩
  | succ k ih =>
    obtain ⟨u, hu, hmu⟩ := engineMove_of_modeChecked hm
    have hu' := engineMove_withEngineOf hcmd hz hu
    have hside := engineMove_keeps_hostSide hu
    have hcmdu : command u = command s := by rw [hside]; rfl
    have hzu : u.zdim = s.zdim := by rw [hside]; rfl
    have hsu : u.turns = [] := by rw [hside]; exact hs
    rw [runFor_succ_of_next k ((step_of_no_turns s hs).trans hu),
      runFor_succ_of_next k ((step_of_no_turns (withEngineOf h s) hh).trans hu')]
    exact ih (hcmd.trans hcmdu.symm) (hz.trans hzu.symm) hsu hmu

/-- START leaves the same engine in every state (R80). -/
theorem beginRun_eq_withEngineOf (s s' : State) : beginRun s' = withEngineOf (beginRun s') (beginRun s) := rfl

/-- Settles O58: after START the engines are equal, and the run of one is that of the other on its own host side. -/
theorem runsDependOnTheirInputsOnly : Obligations.RunsDependOnTheirInputsOnly := by
  unfold Obligations.RunsDependOnTheirInputsOnly
  rintro s s' hs hs' ⟨hprog, hz⟩ k
  have hcmd : command (beginRun s') = command (beginRun s) := command_eq_of_program_eq hprog.symm
  have hm : ModeChecked (beginRun s) := modeChecked_of_phase (by simp) (by simp)
  obtain ⟨t, ht, ht'⟩ := runFor_withEngineOf k hcmd hz.symm hs' hs hm
  rw [← beginRun_eq_withEngineOf] at ht'
  exact ⟨t, withEngineOf (beginRun s') t, ht, ht', sameEngine_withEngineOf _ t⟩

end Sys2Proof.Machine

/-! SUPPORT. A step whose turn is the engine's (00_scope.md R7). -/

namespace Sys2Proof.Machine

/-- An engine turn makes the engine's move with the turns after it left over. -/
theorem step_of_engine {s : State} {ts : List Turn} (h : s.turns = .engine :: ts) :
    step s = outcomeSetTurns ts (step (setTurns [] s)) := by
  have hstep : step s = engineMove (setTurns ts s) := by simp only [step, nextMove, h]
  rw [hstep, step_of_no_turns (setTurns [] s) rfl, ← engineMove_setTurns, setTurns_setTurns]

/-- Settles O23: the engine's move commutes with setting the turns to come. -/
theorem engineTurnIsAnEngineStep : Obligations.EngineTurnIsAnEngineStep := by
  unfold Obligations.EngineTurnIsAnEngineStep
  intro s ts h
  rw [step_of_engine h]
  cases step (setTurns [] s) <;> rfl

end Sys2Proof.Machine

/-! SUPPORT. The engine's move, phase by phase, is the spec's pseudocode of `phaseStep` (41_dispatch_and_scan.md R81,
R90 to R96), and from it the inversion of an engine move that the invariants rest on. -/

namespace Sys2Proof.Machine

variable {s : State}

/-! ## HEADER -/

/-- Five bytes are enough to parse the header, and then the body decides (R82). -/
theorem decode_command (hlen : 5 ≤ s.len) :
    decode (command s) = decodeBody (cmdHalf s 0) (cmdHalf s 2) (cmdByte s 4) (payload s) := by
  rw [command_eq s hlen]; rfl

theorem decode_command_of_short (hlen : s.len < 5) : decode (command s) = .error .truncatedHeader := by
  have hc : (command s).length < 5 := by rw [command_length]; omega
  rcases decodeHeader_cases (command s) with ⟨a, b, c, d, m, rest, e, -⟩ | ⟨-, e⟩
  · rw [e] at hc; simp at hc; omega
  · rw [decode, e]

/-- A decoded body keeps the header it was given. -/
theorem header_of_decodeBody {w ht : Half} {m : Byte} {bs : List Byte} {i : Instr}
    (hd : decoded (decodeBody w ht m bs) = some i) : i.widthField = w ∧ i.heightField = ht ∧ i.modeByte = m := by
  have hpair : ∀ mk, decoded (decodePair mk bs) = some i → ∃ a b c d e f, mk a b c d e f = i := by
    intro mk h
    rcases decodePair_cases mk bs with ⟨a, b, c, d, e, f, rest, -, hk⟩ | ⟨-, hk⟩ <;> rw [hk] at h
    · exact ⟨a, b, c, d, e, f, Option.some.inj h⟩
    · cases h
  unfold decodeBody at hd
  split_ifs at hd with h1 h2 h3 h4
  · rcases decodeTriple_cases (.solid w ht) bs with ⟨r, g, b, rest, -, hk⟩ | ⟨-, hk⟩ <;> rw [hk] at hd <;> cases hd
    exact ⟨rfl, rfl, h1.symm⟩
  · obtain ⟨a, b, c, d, e, f, rfl⟩ := hpair _ hd; exact ⟨rfl, rfl, h2.symm⟩
  · obtain ⟨a, b, c, d, e, f, rfl⟩ := hpair _ hd; exact ⟨rfl, rfl, h3.symm⟩
  · obtain ⟨a, b, c, d, e, f, rfl⟩ := hpair _ hd; exact ⟨rfl, rfl, h4.symm⟩
  · cases hd

/-- R81: what is loaded in HEADER does not depend on whether the command decodes. -/
theorem engineMove_of_header (hp : s.phase = .header) : engineMove s = .next (headerStep s) := by
  have hf : inFlight s = decoded (decode (command s)) := by simp only [inFlight, hp]
  unfold engineMove
  cases hi : inFlight s with
  | none => simp only [noInstrStep, hp]
  | some i =>
    rw [hf] at hi
    rcases headerStep_cases s with ⟨hlen, -⟩ | ⟨hlen, e⟩
    · rw [decode_command_of_short hlen] at hi; cases hi
    · rw [decode_command hlen] at hi
      obtain ⟨hw, hh, hm⟩ := header_of_decodeBody hi
      simp only [exec_eq_instrStep, instrStep, hp, e, hw, hh, hm]

/-! ## DISPATCH -/

theorem dispatchStep_of_unknown (hr : reqLen s.mode = none) : dispatchStep s = trapEntry .unknownMode s := by
  rw [dispatchStep, hr]

theorem dispatchStep_of_tripleMode (hr : reqLen s.mode = some 3) :
    dispatchStep s = if s.len < 8 then trapEntry .payloadTooShort s else loadPayloadS (cmdColour s 5) s := by
  have hlen : (s.len : Int) - 5 < (3 : Nat) ↔ s.len < 8 := by omega
  rw [dispatchStep, hr]
  simp only [hlen, show ¬ 3 = 6 by decide, if_false]

theorem dispatchStep_of_pairMode (hr : reqLen s.mode = some 6) :
    dispatchStep s =
      if s.len < 11 then trapEntry .payloadTooShort s else loadPayloadP (cmdColour s 5) (cmdColour s 8) s := by
  have hlen : (s.len : Int) - 5 < (6 : Nat) ↔ s.len < 11 := by omega
  rw [dispatchStep, hr]
  simp only [hlen, if_true]

theorem decoded_decodeTriple_payload (mk : Byte → Byte → Byte → Instr) :
    decoded (decodeTriple mk (payload s)) =
      if s.len < 8 then none else some (mk (cmdByte s 5) (cmdByte s 6) (cmdByte s 7)) := by
  split
  · have hl : (payload s).length < 3 := by rw [payload_length]; omega
    rcases decodeTriple_cases mk (payload s) with ⟨r, g, b, rest, e, -⟩ | ⟨-, e⟩
    · rw [e] at hl; simp at hl; omega
    · rw [e]; rfl
  · obtain ⟨rest, e⟩ := payload_eq_cons3 s (by omega)
    rw [e]; rfl

theorem decoded_decodePair_payload (mk : Byte → Byte → Byte → Byte → Byte → Byte → Instr) :
    decoded (decodePair mk (payload s)) =
      if s.len < 11 then none
      else some (mk (cmdByte s 5) (cmdByte s 6) (cmdByte s 7) (cmdByte s 8) (cmdByte s 9) (cmdByte s 10)) := by
  split
  · have hl : (payload s).length < 6 := by rw [payload_length]; omega
    rcases decodePair_cases mk (payload s) with ⟨a, b, c, d, e, f, rest, hb, -⟩ | ⟨-, hk⟩
    · rw [hb] at hl; simp at hl; omega
    · rw [hk]; rfl
  · rw [payload_eq6 s (by omega)]; rfl

theorem engineMove_of_dispatch_some (hp : s.phase = .dispatch) {i : Instr} (hi : inFlight s = some i) :
    engineMove s = .next (instrLoad i s) := by
  simp only [engineMove, hi, exec_eq_instrStep, instrStep, hp]

theorem engineMove_of_dispatch_none (hp : s.phase = .dispatch) (hi : inFlight s = none) :
    engineMove s = .next (trapEntry (dispatchTrap s) s) := by
  simp only [engineMove, hi, noInstrStep, hp]

/-- The three format P modes in DISPATCH: they differ only in the constructor `mk`. -/
theorem engineMove_of_dispatch_pairMode (hp : s.phase = .dispatch) (hr : reqLen s.mode = some 6)
    {mk : Byte → Byte → Byte → Byte → Byte → Byte → Instr}
    (hi : inFlight s = decoded (decodePair mk (payload s)))
    (hmk : ∀ a b c d e f, instrLoad (mk a b c d e f) = loadPayloadP ⟨a, b, c⟩ ⟨d, e, f⟩) :
    engineMove s = .next (dispatchStep s) := by
  rw [decoded_decodePair_payload] at hi
  rw [dispatchStep_of_pairMode hr]
  split_ifs at hi ⊢
  · rw [engineMove_of_dispatch_none hp hi, dispatchTrap, hr]
  · rw [engineMove_of_dispatch_some hp hi, hmk]; rfl

/-- R90 to R92: the decoder rejects in DISPATCH what the pseudocode traps on, and loads what it loads. -/
theorem engineMove_of_dispatch (hp : s.phase = .dispatch) : engineMove s = .next (dispatchStep s) := by
  have hf : inFlight s = decoded (decodeBody s.width s.height s.mode (payload s)) := by simp only [inFlight, hp]
  rcases reqLen_cases s.mode with ⟨hm, hr⟩ | ⟨hm | hm | hm, hr⟩ | ⟨⟨h1, h2, h3, h4⟩, hr⟩
  · have hi : inFlight s = decoded (decodeTriple (.solid s.width s.height) (payload s)) := by rw [hf, hm]; rfl
    rw [decoded_decodeTriple_payload] at hi
    rw [dispatchStep_of_tripleMode hr]
    split_ifs at hi ⊢
    · rw [engineMove_of_dispatch_none hp hi, dispatchTrap, hr]
    · rw [engineMove_of_dispatch_some hp hi]; rfl
  · exact engineMove_of_dispatch_pairMode hp hr (mk := .vgrad s.width s.height) (by rw [hf, hm]; rfl)
      (fun _ _ _ _ _ _ => rfl)
  · exact engineMove_of_dispatch_pairMode hp hr (mk := .hgrad s.width s.height) (by rw [hf, hm]; rfl)
      (fun _ _ _ _ _ _ => rfl)
  · exact engineMove_of_dispatch_pairMode hp hr (mk := .checker s.width s.height) (by rw [hf, hm]; rfl)
      (fun _ _ _ _ _ _ => rfl)
  · have hi : inFlight s = none := by rw [hf]; simp [decodeBody, h1, h2, h3, h4, decoded]
    rw [engineMove_of_dispatch_none hp hi, dispatchTrap, hr, dispatchStep_of_unknown hr]

/-! ## SETUP, RENDER and the halted phases -/

theorem engineMove_of_setup (hp : s.phase = .setup) : engineMove s = .next (setupStep s) := by
  unfold engineMove
  cases inFlight s with
  | none => simp only [noInstrStep, hp]
  | some i => simp only [exec_eq_instrStep, instrStep, hp]

/-- R95: the colour at the scan position is that of the instruction the operand registers hold. -/
theorem colourAt_eq_latchedInstr (s : State) :
    colourAt s s.x.toNat s.y.toNat = (latchedInstr s).map fun i => instrColour i s := by
  unfold colourAt colourOf latchedInstr
  split_ifs <;> rfl

theorem engineMove_of_render (hp : s.phase = .render) {c : Colour} (hc : colourAt s s.x.toNat s.y.toNat = some c) :
    engineMove s = .next (renderStep c s) := by
  rw [colourAt_eq_latchedInstr, Option.map_eq_some_iff] at hc
  obtain ⟨i, hi, rfl⟩ := hc
  have hf : inFlight s = some i := by simp only [inFlight, hp, hi]
  simp only [engineMove, hf, exec_of_render i s hp]

theorem engineMove_of_render_none (hp : s.phase = .render) (hc : colourAt s s.x.toNat s.y.toNat = none) :
    engineMove s = .fault .noColourRule := by
  rw [colourAt_eq_latchedInstr, Option.map_eq_none_iff] at hc
  have hf : inFlight s = none := by simp only [inFlight, hp, hc]
  simp only [engineMove, hf, noInstrStep, hp]

theorem exec_of_halted (hh : halted s = true) (i : Instr) : exec i s = .next s := by
  rw [exec_eq_instrStep, instrStep]
  rcases (halted_eq_true s).mp hh with hp | hp | hp <;> rw [hp]

theorem engineMove_of_halted (hh : halted s = true) : engineMove s = .next s := by
  unfold engineMove noInstrStep
  cases inFlight s with
  | some i => exact exec_of_halted hh i
  | none => rcases (halted_eq_true s).mp hh with hp | hp | hp <;> rw [hp]

/-! ## The phase machine, and its inversion -/

/-- The engine's move is the spec's pseudocode of a step, in every state. -/
theorem engineMove_eq_phaseStep (s : State) : engineMove s = phaseStep s := by
  unfold phaseStep
  cases hp : s.phase with
  | header => exact engineMove_of_header hp
  | dispatch => exact engineMove_of_dispatch hp
  | setup => exact engineMove_of_setup hp
  | render =>
    cases hc : colourAt s s.x.toNat s.y.toNat with
    | some c => exact engineMove_of_render hp hc
    | none => exact engineMove_of_render_none hp hc
  | idle | done | error => exact engineMove_of_halted (by rw [halted_eq_true, hp]; decide)

/-- The inversion of an engine move that answers a next state. -/
theorem engineMove_cases {t : State} (ht : engineMove s = .next t) :
    (s.phase = .header ∧ t = headerStep s) ∨ (s.phase = .dispatch ∧ t = dispatchStep s) ∨
    (s.phase = .setup ∧ t = setupStep s) ∨
    (s.phase = .render ∧ ∃ c, colourAt s s.x.toNat s.y.toNat = some c ∧ t = renderStep c s) ∨
    (halted s = true ∧ t = s) := by
  rw [engineMove_eq_phaseStep] at ht
  unfold phaseStep at ht
  cases hp : s.phase <;> simp only [hp] at ht
  case render =>
    cases hc : colourAt s s.x.toNat s.y.toNat with
    | none => rw [hc] at ht; cases ht
    | some c => rw [hc] at ht; cases ht; simp
  all_goals cases ht; simp [halted_eq_true, hp]

end Sys2Proof.Machine

/-! SUPPORT. The invariant (Safety.lean's `Inv`): reset meets it, and every step of the engine and of the host keeps
it. -/

namespace Sys2Proof.Machine

variable {s : State}

/-! ## Ways to establish the invariant -/

/-- Outside `ERROR` the invariant has no error recorded (R20). -/
theorem Inv.err_eq_noError (hi : Inv s) (hp : s.phase ≠ .error) : s.err = .noError := by
  obtain ⟨-, -, herr, -, -⟩ := hi
  by_contra hne
  exact hp (herr.mp hne)

theorem inv_of_noError {t : State} (hcmd : Memory.wf t.cmd) (hpix : Memory.wf t.pix) (herr : t.err = .noError)
    (hp : t.phase ≠ .error) (hphase : PhaseInv t) : Inv t :=
  ⟨hcmd, hpix, by simp [herr, hp], by simp [herr], hphase⟩

/-- A trap keeps the invariant where the scan has not begun (R167, R168). -/
theorem inv_trapEntry {k : ErrKind} (hi : Inv s) (hk : k ≠ .noError) (hrange : k ≠ .range) (hx : s.x = 0#16)
    (hy : s.y = 0#16) (hpix : s.pix = []) : Inv (trapEntry k s) := by
  obtain ⟨hcmd, hwf, -, -, -⟩ := hi
  exact ⟨hcmd, hwf, by simp [hk], hrange, hx, hy, hpix⟩

/-! ## The raster order of `PIX` -/

/-- Row and column are determined by the index: `Y*WIDTH + X` is injective on positions inside the rows. -/
theorem rasterIndex_inj {w x y x' y' : Nat} (hx : x < w) (hx' : x' < w) (h : y * w + x = y' * w + x') :
    x = x' ∧ y = y' := by
  have hmod := congrArg (· % w) h
  simp only [Nat.mul_add_mod_self_right, Nat.mod_eq_of_lt hx, Nat.mod_eq_of_lt hx'] at hmod
  subst hmod
  exact ⟨rfl, Nat.eq_of_mul_eq_mul_right (Nat.zero_lt_of_lt hx) (Nat.add_right_cancel h)⟩

theorem pixIsRaster_zero (hpix : s.pix = []) : PixIsRaster s 0 :=
  ⟨by rw [hpix]; rfl, fun _ _ _ h => absurd h (Nat.not_lt_zero _)⟩

theorem colourAt_renderStep (c : Colour) (x y : Nat) : colourAt (renderStep c s) x y = colourAt s x y := by
  simp [colourAt]

/-- R46: a RENDER step appends the next pixel of the raster order. -/
theorem pixIsRaster_renderStep {c : Colour} (hx : s.x.toNat < s.width.toNat)
    (hc : colourAt s s.x.toNat s.y.toNat = some c) (hr : PixIsRaster s (pixIndex s)) :
    PixIsRaster (renderStep c s) (pixIndex s + 1) := by
  obtain ⟨haddr, hval⟩ := hr
  refine ⟨?_, fun x y hxw hlt => ?_⟩
  · rw [renderStep_pix, Memory.write_of_range _ _ _ haddr, List.map_append, haddr, List.range_succ]; rfl
  · rw [renderStep_width] at hxw hlt ⊢
    rw [renderStep_pix, colourAt_renderStep]
    by_cases heq : y * s.width.toNat + x = pixIndex s
    · obtain ⟨rfl, rfl⟩ := rasterIndex_inj hxw hx heq
      rw [heq, Memory.read_write_self, hc]
    · rw [Memory.read_write_of_ne _ _ heq]
      exact hval x y hxw (by omega)

/-- The scan position after a RENDER step (R97): the next index inside the image, or the end of the last row. -/
theorem renderStep_position (c : Colour) (hp : s.phase = .render) (hx : s.x.toNat < s.width.toNat)
    (hy : s.y.toNat < s.height.toNat) :
    ((renderStep c s).phase = .render ∧ (renderStep c s).x.toNat < s.width.toNat ∧
      (renderStep c s).y.toNat < s.height.toNat ∧ pixIndex (renderStep c s) = pixIndex s + 1) ∨
    ((renderStep c s).phase = .done ∧ (renderStep c s).x.toNat + 1 = s.width.toNat ∧
      (renderStep c s).y.toNat + 1 = s.height.toNat ∧ s.width.toNat * s.height.toNat = pixIndex s + 1) := by
  obtain ⟨-, -, hadv, -⟩ := rendered_renderStep s c
  simp only [pixIndex, renderStep_width]
  split_ifs at hadv with h1 h2
  · obtain ⟨ex, ey, ep⟩ := hadv
    refine .inl ⟨ep.trans hp, by omega, by rw [ey]; exact hy, by rw [ex, ey]; omega⟩
  · obtain ⟨ex, ey, ep⟩ := hadv
    have hrow : (s.y.toNat + 1) * s.width.toNat = s.y.toNat * s.width.toNat + s.width.toNat := Nat.succ_mul _ _
    refine .inl ⟨ep.trans hp, by rw [ex, BitVec.toNat_zero]; omega, by omega, ?_⟩
    rw [ex, ey, hrow, BitVec.toNat_zero]; omega
  · obtain ⟨ex, ey, ep⟩ := hadv
    have hh : s.height.toNat = s.y.toNat + 1 := by omega
    refine .inr ⟨ep, by rw [ex]; omega, by rw [ey]; omega, ?_⟩
    rw [hh, Nat.mul_succ, Nat.mul_comm]; omega

/-! ## The engine's steps -/

theorem inv_headerStep (hi : Inv s) (hp : s.phase = .header) : Inv (headerStep s) := by
  have herr := hi.err_eq_noError (by simp [hp])
  obtain ⟨hcmd, hwf, -, -, hphase⟩ := id hi
  simp only [PhaseInv, hp] at hphase
  obtain ⟨-, -, -, hc1, hc2, hx, hy, hpix⟩ := hphase
  rcases headerStep_cases s with ⟨-, e⟩ | ⟨hlen, e⟩ <;> rw [e]
  · exact inv_trapEntry hi (by decide) (by decide) hx hy hpix
  · exact inv_of_noError hcmd hwf herr (by simp) ⟨hlen, rfl, rfl, rfl, hc1, hc2, hx, hy, hpix⟩

theorem inv_dispatchStep (hi : Inv s) (hp : s.phase = .dispatch) : Inv (dispatchStep s) := by
  have herr := hi.err_eq_noError (by simp [hp])
  obtain ⟨hcmd, hwf, -, -, hphase⟩ := id hi
  simp only [PhaseInv, hp] at hphase
  obtain ⟨-, -, -, -, -, hc2, hx, hy, hpix⟩ := hphase
  rcases reqLen_cases s.mode with ⟨-, hr⟩ | ⟨hm, hr⟩ | ⟨-, hr⟩
  · rw [dispatchStep_of_tripleMode hr]
    split
    · exact inv_trapEntry hi (by decide) (by decide) hx hy hpix
    · exact inv_of_noError hcmd hwf herr (by simp)
        ⟨⟨by rw [loadPayloadS_mode, hr]; rfl, fun _ => hc2⟩, hx, hy, hpix⟩
  · have hm1 : s.mode ≠ 1#8 := by rcases hm with hm | hm | hm <;> rw [hm] <;> decide
    rw [dispatchStep_of_pairMode hr]
    split
    · exact inv_trapEntry hi (by decide) (by decide) hx hy hpix
    · exact inv_of_noError hcmd hwf herr (by simp)
        ⟨⟨by rw [loadPayloadP_mode, hr]; rfl, fun h => absurd h hm1⟩, hx, hy, hpix⟩
  · rw [dispatchStep_of_unknown hr]
    exact inv_trapEntry hi (by decide) (by decide) hx hy hpix

theorem inv_setupStep (hi : Inv s) (hp : s.phase = .setup) : Inv (setupStep s) := by
  have herr := hi.err_eq_noError (by simp [hp])
  obtain ⟨hcmd, hwf, -, -, hphase⟩ := id hi
  simp only [PhaseInv, hp] at hphase
  obtain ⟨hmode, hx, hy, hpix⟩ := hphase
  rcases setupStep_cases s with ⟨-, -, e⟩ | ⟨hd, -, e⟩ | ⟨hw, hh, e⟩ <;> rw [e]
  · exact inv_trapEntry hi (by decide) (by decide) hx hy hpix
  · have hzero : s.width.toNat * s.height.toNat = 0 := by rcases hd with hd | hd <;> simp [hd]
    refine inv_of_noError hcmd hwf herr (by simp) ⟨hmode, ?_, by simp only [hd, if_true]; exact ⟨hx, hy⟩⟩
    simp only [hzero]
    exact pixIsRaster_zero hpix
  · have hidx : pixIndex { s with x := 0#16, y := 0#16, phase := .render } = 0 := by simp [pixIndex]
    refine inv_of_noError hcmd hwf herr (by simp) ⟨hmode, ?_, ?_, by rw [hidx]; exact pixIsRaster_zero hpix⟩
    · exact Nat.pos_of_ne_zero fun h => hw (BitVec.eq_of_toNat_eq h)
    · exact Nat.pos_of_ne_zero fun h => hh (BitVec.eq_of_toNat_eq h)

theorem inv_renderStep {c : Colour} (hi : Inv s) (hp : s.phase = .render)
    (hc : colourAt s s.x.toNat s.y.toNat = some c) : Inv (renderStep c s) := by
  have herr : (renderStep c s).err = .noError := by rw [renderStep_err]; exact hi.err_eq_noError (by simp [hp])
  obtain ⟨hcmd, hwf, -, -, hphase⟩ := id hi
  simp only [PhaseInv, hp] at hphase
  obtain ⟨hmode, hx, hy, hr⟩ := hphase
  have hcmd' : Memory.wf (renderStep c s).cmd := by rw [renderStep_cmd]; exact hcmd
  have hwf' : Memory.wf (renderStep c s).pix := by rw [renderStep_pix]; exact Memory.wf_write hwf _ _
  have hmode' : ModeValid (renderStep c s) := by rw [ModeValid, renderStep_mode, renderStep_c2]; exact hmode
  have hr' := pixIsRaster_renderStep hx hc hr
  rcases renderStep_position c hp hx hy with ⟨ep, ex, ey, en⟩ | ⟨ep, ex, ey, en⟩
  · refine inv_of_noError hcmd' hwf' herr (by simp [ep]) ?_
    simp only [PhaseInv, ep, renderStep_width, renderStep_height, en]
    exact ⟨hmode', ex, ey, hr'⟩
  · have hne : ¬ (s.width = 0#16 ∨ s.height = 0#16) := by
      rintro (h | h)
      · rw [h] at hx; exact Nat.not_lt_zero _ hx
      · rw [h] at hy; exact Nat.not_lt_zero _ hy
    refine inv_of_noError hcmd' hwf' herr (by simp [ep]) ?_
    simp only [PhaseInv, ep, renderStep_width, renderStep_height, en, hne, if_false]
    exact ⟨hmode', hr', ex, ey⟩

theorem inv_engineMove {t : State} (hi : Inv s) (ht : engineMove s = .next t) : Inv t := by
  rcases engineMove_cases ht with ⟨hp, rfl⟩ | ⟨hp, rfl⟩ | ⟨hp, rfl⟩ | ⟨hp, c, hc, rfl⟩ | ⟨-, rfl⟩
  · exact inv_headerStep hi hp
  · exact inv_dispatchStep hi hp
  · exact inv_setupStep hi hp
  · exact inv_renderStep hi hp hc
  · exact hi

/-! ## The host's actions -/

theorem inv_setTurns (ts : List Turn) (hi : Inv s) : Inv (setTurns ts s) := hi

theorem inv_setReply (r : Reply) (hi : Inv s) : Inv (setReply r s) := hi

/-- START and RESET leave a cleared engine in `HEADER` or `IDLE` (R80, R191). -/
theorem inv_beginRun (hcmd : Memory.wf s.cmd) : Inv (beginRun s) :=
  inv_of_noError hcmd Memory.wf_nil rfl (by simp) ⟨rfl, rfl, rfl, rfl, rfl, rfl, rfl, rfl⟩

theorem inv_resetCmd (hcmd : Memory.wf s.cmd) : Inv (resetCmd s) :=
  inv_of_noError hcmd Memory.wf_nil rfl (by simp) ⟨rfl, rfl, rfl, rfl, rfl, rfl, rfl, rfl⟩

theorem inv_startCmd (hi : Inv s) : Inv (startCmd s) := by
  unfold startCmd
  split
  · exact inv_beginRun hi.left
  · exact hi

/-- In a halted phase the invariant asks nothing of the host's side but the canonical form of `CMD`. -/
theorem inv_withEngineOf_of_halted {h : State} (hi : Inv s) (hh : halted s = true) (hcmd : Memory.wf h.cmd) :
    Inv (withEngineOf h s) := by
  obtain ⟨-, hpix, herr, hrange, hphase⟩ := hi
  refine ⟨hcmd, hpix, herr, hrange, ?_⟩
  rcases (halted_eq_true s).mp hh with hp | hp | hp <;> simp only [PhaseInv, hp, withEngineOf_phase] at hphase ⊢ <;>
    exact hphase

theorem inv_writeCfg (v : Nat) (hi : Inv s) : Inv (writeCfg v s) := by
  unfold writeCfg
  split
  · exact inv_withEngineOf_of_halted (h := { s with zdim := _ }) hi ‹_› hi.left
  · exact hi

theorem inv_writeLen (v : Nat) (hi : Inv s) : Inv (writeLen v s) := by
  unfold writeLen
  split
  · exact inv_withEngineOf_of_halted (h := { s with len := v }) hi ‹_› hi.left
  · exact hi

theorem inv_writeCmd (i : Nat) (b : Byte) (hi : Inv s) : Inv (writeCmd i b s) := by
  unfold writeCmd
  split
  · exact inv_withEngineOf_of_halted (h := { s with cmd := _ }) hi ‹_› (Memory.wf_write hi.left i b)
  · exact hi

theorem inv_hardwareReset (s : State) : Inv (hardwareReset s) :=
  inv_of_noError Memory.wf_nil Memory.wf_nil rfl (by simp [hardwareReset, State.reset])
    ⟨rfl, rfl, rfl, rfl, rfl, rfl, rfl, rfl⟩

theorem inv_hostAct (a : HostAction) (hi : Inv s) : Inv (hostAct a s) := by
  rcases hostAct_cases a s with ⟨v, -, ⟨-, e⟩ | ⟨-, -, e⟩ | ⟨-, -, e⟩⟩ | ⟨v, -, e⟩ | ⟨v, -, e⟩ | ⟨n, v, -, -, e⟩ |
    ⟨i, b, -, e⟩ | ⟨r, -, e⟩ | ⟨-, e⟩ <;> rw [e]
  · exact inv_resetCmd hi.left
  · exact inv_startCmd hi
  · exact hi
  · exact inv_writeCfg v hi
  · exact inv_writeLen v hi
  · exact hi
  · exact inv_writeCmd i b hi
  · exact inv_setReply r hi
  · exact inv_hardwareReset s

/-! ## Every step, and reset -/

/-- Settles O54: a step is an engine move or a host action, with its turn used up. -/
theorem everyStepKeepsTheInvariant : Obligations.EveryStepKeepsTheInvariant := by
  unfold Obligations.EveryStepKeepsTheInvariant
  intro s t hi ht
  rcases step_cases s with ⟨-, e⟩ | ⟨ts, -, e⟩ | ⟨a, ts, -, e⟩ <;> rw [e] at ht
  · exact inv_engineMove hi ht
  · exact inv_engineMove (inv_setTurns ts hi) ht
  · cases ht
    exact inv_hostAct a (inv_setTurns ts hi)

/-- Settles O53: both spaces are empty, no error is recorded, and the engine is cleared. -/
theorem resetMeetsTheInvariant : Obligations.ResetMeetsTheInvariant := by
  unfold Obligations.ResetMeetsTheInvariant
  exact inv_of_noError Memory.wf_nil Memory.wf_nil rfl (by decide) ⟨rfl, rfl, rfl, rfl, rfl, rfl, rfl, rfl⟩

end Sys2Proof.Machine

/-! SUPPORT. The register interface and the flags (10_state.md): what registers read as, which steps write `MODE`, and
where the scan counters can be. -/

namespace Sys2Proof.Machine

variable {s : State}

/-! ## The registers as read (R21, R22, R42) -/

/-- `STATUS` as the sum of its fields. -/
theorem statusByte_toNat (s : State) :
    (statusByte s).toNat = (phaseCode s.phase).toNat + 8 * (if busyFlag s then 1 else 0) +
      16 * (if doneFlag s then 1 else 0) + 32 * (if errorFlag s then 1 else 0) := by
  unfold statusByte busyFlag doneFlag errorFlag
  cases s.phase <;> rfl

/-- The packed view of a triplet, most significant channel first. -/
theorem colourWord_toNat (c : Colour) :
    (colourWord c).toNat = c.r.toNat * 65536 + c.g.toNat * 256 + c.b.toNat := by
  have hrg := bigEndian_toNat c.r c.g
  have hb := c.b.isLt
  rw [colourWord, BitVec.toNat_append, Nat.shiftLeft_eq, Nat.mul_comm, ← Nat.two_pow_add_eq_or_of_lt hb]
  unfold bigEndian at hrg
  omega

theorem regValue_cfg (s : State) : regValue s 1 = if s.zdim = .reject then 1 else 0 := by
  rw [regValue]
  cases s.zdim <;> rfl

theorem regValue_of_ge {n : Nat} (h : 12 ≤ n) : regValue s n = 0 := by
  obtain ⟨m, rfl⟩ := Nat.exists_eq_add_of_le' h
  rfl

theorem writeReg_of_ge {n : Nat} (h : 3 ≤ n) (v : Nat) : writeReg n v s = s := by
  obtain ⟨m, rfl⟩ := Nat.exists_eq_add_of_le' h
  rfl

/-- Settles O4: the layout of each register number, and the writes that are ignored. -/
theorem hostReadsRegistersAndCannotWriteThem : Obligations.HostReadsRegistersAndCannotWriteThem := by
  unfold Obligations.HostReadsRegistersAndCannotWriteThem
  intro s ts n
  refine ⟨fun v hts hn => ?_, fun hts => ⟨regValue s n, step_of_host s hts, ?_⟩⟩
  · rw [step_of_host s hts, hostAct, writeReg_of_ge hn]
  · refine ⟨?ctrl, ?cfg, ?len, ?status, ?err, ?width, ?height, ?mode, ?c1, ?c2, ?x, ?y, regValue_of_ge⟩ <;> rintro rfl
    case cfg => exact regValue_cfg s
    case status => exact statusByte_toNat s
    case c1 => exact colourWord_toNat s.c1
    case c2 => exact colourWord_toNat s.c2
    all_goals rfl

/-- Settles O3: the flags and the numbers of R17, phase by phase. -/
theorem flagsAreDerivedFromPhase : Obligations.FlagsAreDerivedFromPhase := by
  unfold Obligations.FlagsAreDerivedFromPhase
  intro s
  rw [busyFlag_eq_true, doneFlag, errorFlag]
  cases s.phase <;> decide

/-- Settles O1: the values of R27, field by field. -/
theorem resetLeavesTheListedValues : Obligations.ResetLeavesTheListedValues := by
  unfold Obligations.ResetLeavesTheListedValues
  exact ⟨rfl, rfl, rfl, rfl, rfl, rfl, rfl, rfl, rfl, rfl, rfl, Memory.read_nil, Memory.read_nil, rfl, rfl, rfl⟩

/-! ## What the engine writes -/

/-- Settles O10: an engine move is one on the engine's fields of the same host side. -/
theorem engineNeverWritesItsInputs : Obligations.EngineNeverWritesItsInputs := by
  unfold Obligations.EngineNeverWritesItsInputs
  intro s t hts ht
  rw [step_of_no_turns s hts] at ht
  rw [engineMove_keeps_hostSide ht]
  exact ⟨rfl, rfl, rfl, rfl, rfl, rfl, rfl⟩

/-- Settles O32: in a halted phase neither the engine's move nor any instruction changes anything. -/
theorem haltedEngineStaysAsItIs : Obligations.HaltedEngineStaysAsItIs := by
  unfold Obligations.HaltedEngineStaysAsItIs
  intro s hp
  have hh : halted s = true := (halted_eq_true s).mpr hp
  exact ⟨fun hts => by rw [step_of_no_turns s hts, engineMove_of_halted hh], exec_of_halted hh⟩

theorem dispatchStep_mode (s : State) : (dispatchStep s).mode = s.mode := by
  rcases dispatchStep_cases s with ⟨k, e⟩ | ⟨c, e⟩ | ⟨c, d, e⟩ <;> rw [e]
  · exact trapEntry_mode s k
  · exact loadPayloadS_mode s c
  · exact loadPayloadP_mode s c d

/-- R13: of the engine's phases only HEADER writes `MODE`. -/
theorem engineMove_mode {t : State} (ht : engineMove s = .next t) : s.phase = .header ∨ t.mode = s.mode := by
  rcases engineMove_cases ht with ⟨hp, -⟩ | ⟨-, rfl⟩ | ⟨-, rfl⟩ | ⟨-, c, -, rfl⟩ | ⟨-, rfl⟩
  · exact .inl hp
  · exact .inr (dispatchStep_mode s)
  · exact .inr (setupStep_mode s)
  · exact .inr (renderStep_mode s c)
  · exact .inr rfl

/-- R13, R190: the host clears `MODE` through `CTRL` and by hardware reset, and leaves it alone otherwise. -/
theorem hostAct_mode (a : HostAction) (s : State) :
    (hostAct a s).mode = s.mode ∨
      (((∃ v, a = .writeReg 0 v) ∨ a = .hardwareReset) ∧ (hostAct a s).mode = 0#8) := by
  rcases hostAct_cases a s with ⟨v, ha, ⟨-, e⟩ | ⟨-, -, e⟩ | ⟨-, -, e⟩⟩ | ⟨v, -, e⟩ | ⟨v, -, e⟩ | ⟨n, v, -, -, e⟩ |
    ⟨i, b, -, e⟩ | ⟨r, -, e⟩ | ⟨ha, e⟩ <;> rw [e]
  · exact .inr ⟨.inl ⟨v, ha⟩, rfl⟩
  · unfold startCmd
    split
    · exact .inr ⟨.inl ⟨v, ha⟩, rfl⟩
    · exact .inl rfl
  · exact .inl rfl
  · unfold writeCfg; split <;> exact .inl rfl
  · unfold writeLen; split <;> exact .inl rfl
  · exact .inl rfl
  · unfold writeCmd; split <;> exact .inl rfl
  · exact .inl rfl
  · exact .inr ⟨.inr ha, rfl⟩

/-- Settles O6: by whose move the step is. -/
theorem modeWrittenOnlyByHeaderStartReset : Obligations.ModeWrittenOnlyByHeaderStartReset := by
  unfold Obligations.ModeWrittenOnlyByHeaderStartReset
  intro s t ht hne
  rcases step_cases s with ⟨hts, e⟩ | ⟨ts, hts, e⟩ | ⟨a, ts, hts, e⟩ <;> rw [e] at ht
  · exact .inl ⟨(engineMove_mode ht).resolve_right hne, .inl hts⟩
  · exact .inl ⟨(engineMove_mode ht).resolve_right hne, .inr ⟨ts, hts⟩⟩
  · cases ht
    rcases hostAct_mode a (setTurns ts s) with hmode | ⟨⟨v, rfl⟩ | rfl, hmode⟩
    · exact absurd hmode hne
    · exact .inr (.inl ⟨v, ts, hts, hmode⟩)
    · exact .inr (.inr ⟨ts, hts, hmode⟩)

/-! ## The scan counters (R18) -/

theorem inv_render_counters (hi : Inv s) (hp : s.phase = .render) :
    s.x.toNat < s.width.toNat ∧ s.y.toNat < s.height.toNat := by
  obtain ⟨-, -, -, -, hphase⟩ := hi
  simp only [PhaseInv, hp] at hphase
  obtain ⟨-, hx, hy, -⟩ := hphase
  exact ⟨hx, hy⟩

/-- At `DONE` the counters are at the last pixel, or at 0 for an empty image. -/
theorem inv_done_counters (hi : Inv s) (hp : s.phase = .done) :
    (s.x = 0#16 ∧ s.y = 0#16) ∨ (s.x.toNat + 1 = s.width.toNat ∧ s.y.toNat + 1 = s.height.toNat) := by
  obtain ⟨-, -, -, -, hphase⟩ := hi
  simp only [PhaseInv, hp] at hphase
  obtain ⟨-, -, hxy⟩ := hphase
  split at hxy
  · exact .inl hxy
  · exact .inr hxy

/-- Settles O7: the step keeps the invariant, which bounds the counters by the 16-bit dimensions. -/
theorem scanCountersStayBelow65535 : Obligations.ScanCountersStayBelow65535 := by
  unfold Obligations.ScanCountersStayBelow65535
  intro s t hi ht
  have hinv : Inv t := everyStepKeepsTheInvariant s t hi ht
  have hw := t.width.isLt
  have hh := t.height.isLt
  refine ⟨inv_render_counters hinv, ?_⟩
  rintro (hp | hp)
  · obtain ⟨hx, hy⟩ := inv_render_counters hinv hp
    omega
  · rcases inv_done_counters hinv hp with ⟨hx, hy⟩ | ⟨hx, hy⟩
    · rw [hx, hy]; decide
    · omega

end Sys2Proof.Machine

/-! SUPPORT. The two memory spaces (20_memory.md): the byte order of the header, the raster order of `PIX`, the command
bytes that the engine reads, and that a good state runs on. -/

namespace Sys2Proof.Machine

variable {s s' : State}

/-! ## The header's byte order (R43) -/

/-- Settles O8: the header pairs its bytes in wire order, the first of a pair the more significant. -/
theorem widthAndHeightAreBigEndian : Obligations.WidthAndHeightAreBigEndian := by
  unfold Obligations.WidthAndHeightAreBigEndian
  intro b0 b1 b2 b3 m rest
  exact ⟨bigEndian b0 b1, bigEndian b2 b3, rfl, bigEndian_toNat b0 b1, bigEndian_toNat b2 b3⟩

/-! ## The raster order of `PIX` (R41, R46) -/

theorem length_pix_of_pixIsRaster {n : Nat} (hr : PixIsRaster s n) : s.pix.length = n := by
  obtain ⟨haddr, -⟩ := hr
  rw [← List.length_map (f := Prod.fst), haddr, List.length_range]

theorem read_pix_of_pixIsRaster {n i : Nat} (hr : PixIsRaster s n) (hi : n ≤ i) : Memory.read s.pix i = none := by
  obtain ⟨haddr, -⟩ := hr
  apply Memory.read_of_not_mem
  rw [haddr, List.mem_range]
  exact Nat.not_lt.mpr hi

theorem inv_render_pixIsRaster (hi : Inv s) (hp : s.phase = .render) : PixIsRaster s (pixIndex s) := by
  obtain ⟨-, -, -, -, hphase⟩ := hi
  simp only [PhaseInv, hp] at hphase
  obtain ⟨-, -, -, hr⟩ := hphase
  exact hr

/-- A position inside the image has its index inside the image. -/
theorem pixIndex_lt (hx : s.x.toNat < s.width.toNat) (hy : s.y.toNat < s.height.toNat) :
    pixIndex s < s.width.toNat * s.height.toNat := by
  calc pixIndex s < s.y.toNat * s.width.toNat + s.width.toNat := Nat.add_lt_add_left hx _
    _ = (s.y.toNat + 1) * s.width.toNat := (Nat.succ_mul _ _).symm
    _ ≤ s.height.toNat * s.width.toNat := Nat.mul_le_mul_right _ hy
    _ = s.width.toNat * s.height.toNat := Nat.mul_comm _ _

/-- The largest image (R41) has `65535 * 65535` pixels. -/
theorem imageSize_le (s : State) : s.width.toNat * s.height.toNat ≤ 65535 * 65535 :=
  Nat.mul_le_mul (Nat.le_of_lt_succ s.width.isLt) (Nat.le_of_lt_succ s.height.isLt)

/-- Settles O9: `PIX` lists exactly the indices before that of the scan position, which is inside the image. -/
theorem eachPixelWrittenOnceInOrder : Obligations.EachPixelWrittenOnceInOrder := by
  unfold Obligations.EachPixelWrittenOnceInOrder
  intro s hi hp
  have hr := inv_render_pixIsRaster hi hp
  obtain ⟨hx, hy⟩ := inv_render_counters hi hp
  have hlt := pixIndex_lt hx hy
  have hle := imageSize_le s
  exact ⟨(length_pix_of_pixIsRaster hr).symm, read_pix_of_pixIsRaster hr le_rfl, hlt, by omega⟩

/-! ## The command bytes the engine reads (R45, R49, R53) -/

theorem eq_withEngineOf_of_sameEngine (he : SameEngine s s') : s' = withEngineOf s' s := by
  obtain ⟨hw, hh, hm, hc1, hc2, hx, hy, hp, herr, hpix⟩ := he
  simp only [withEngineOf, hw, hh, hm, hc1, hc2, hx, hy, hp, herr, hpix]

/-- The command is the bytes below `LEN` and below 11. -/
theorem command_congr (hlen : s.len = s'.len) (hbytes : ∀ i, i < s.len → i < 11 → cmdByte s i = cmdByte s' i) :
    command s = command s' := by
  unfold command cmdBytes
  rw [← hlen]
  refine List.map_congr_left fun k hk => ?_
  obtain ⟨hk1, hk2⟩ := lt_min_iff.mp (List.mem_range.mp hk)
  rw [Nat.zero_add]
  exact hbytes k hk1 hk2

/-- R95: the one fault is that of a RENDER step without a colour rule. -/
theorem engineMove_eq_fault_iff {f : Fault} :
    engineMove s = .fault f ↔ s.phase = .render ∧ colourAt s s.x.toNat s.y.toNat = none := by
  cases f
  constructor
  · intro hf
    rw [engineMove_eq_phaseStep, phaseStep] at hf
    cases hp : s.phase <;> rw [hp] at hf
    case render =>
      cases hc : colourAt s s.x.toNat s.y.toNat with
      | none => exact ⟨rfl, rfl⟩
      | some c => rw [hc] at hf; cases hf
    all_goals cases hf
  · rintro ⟨hp, hc⟩
    exact engineMove_of_render_none hp hc

/-- The fault is raised by the engine's own fields, whatever the host side. -/
theorem engineMove_withEngineOf_of_fault {h : State} {f : Fault} (hf : engineMove s = .fault f) :
    engineMove (withEngineOf h s) = .fault f := by
  obtain ⟨hp, hc⟩ := engineMove_eq_fault_iff.mp hf
  exact engineMove_eq_fault_iff.mpr ⟨hp, hc⟩

/-- Settles O11: the second state is the engine of the first on a host side with the same command and policy. -/
theorem engineReadsOnlyElevenCommandBytes : Obligations.EngineReadsOnlyElevenCommandBytes := by
  unfold Obligations.EngineReadsOnlyElevenCommandBytes
  intro s s' hs hs' he hz hlen hbytes
  have hcmd : command s' = command s := (command_congr hlen hbytes).symm
  rw [step_of_no_turns s hs, step_of_no_turns s' hs', eq_withEngineOf_of_sameEngine he]
  refine ⟨fun t ht => ?_, fun f hf => engineMove_withEngineOf_of_fault hf⟩
  exact ⟨withEngineOf s' t, engineMove_withEngineOf hcmd hz.symm ht, sameEngine_withEngineOf s' t⟩

/-! ## Good states run on (R49, R95, R160) -/

theorem modeChecked_of_inv (hi : Inv s) : ModeChecked s := by
  obtain ⟨-, -, -, -, hphase⟩ := hi
  rintro (hp | hp)
  · simp only [PhaseInv, hp] at hphase
    obtain ⟨⟨hm, -⟩, -⟩ := hphase
    exact hm
  · simp only [PhaseInv, hp] at hphase
    obtain ⟨⟨hm, -⟩, -⟩ := hphase
    exact hm

theorem engineMove_of_inv (hi : Inv s) : ∃ t, engineMove s = .next t := by
  obtain ⟨t, ht, -⟩ := engineMove_of_modeChecked (modeChecked_of_inv hi)
  exact ⟨t, ht⟩

/-- A step of a good state answers a next state, whoever moves. -/
theorem step_of_inv (hi : Inv s) : ∃ t, step s = .next t := by
  rcases step_cases s with ⟨-, e⟩ | ⟨ts, -, e⟩ | ⟨a, ts, -, e⟩ <;> rw [e]
  · exact engineMove_of_inv hi
  · exact engineMove_of_inv (inv_setTurns ts hi)
  · exact ⟨_, rfl⟩

/-- Settles O55, by induction on the number of steps: every step answers, with a good state again (O54). -/
theorem goodStatesRunOn : Obligations.GoodStatesRunOn := by
  unfold Obligations.GoodStatesRunOn
  intro s hi k
  induction k generalizing s with
  | zero => exact ⟨s, runFor_zero s⟩
  | succ k ih =>
    obtain ⟨u, hu⟩ := step_of_inv hi
    rw [runFor_succ_of_next k hu]
    exact ih u (everyStepKeepsTheInvariant s u hi hu)

end Sys2Proof.Machine

/-! SUPPORT. Encoding (30_encoding.md, 45_encoder.md): what the decoder answers on every byte string, the assembler's
range check, and the step on a decoded instruction. -/

namespace Sys2Proof

/-! ## Decoding what was encoded (R62, R63, R149) -/

/-- Five header bytes are parsed back to the header, and the body decides the rest. -/
theorem decode_headerBytes_append (w h : Half) (m : Byte) (bs : List Byte) :
    decode (headerBytes w h m ++ bs) = decodeBody w h m bs := by
  have hd : decodeHeader (headerBytes w h m ++ bs) = .ok (w, h, m, bs) := by
    simp [headerBytes, decodeHeader, bigEndian_extract]
  rw [decode, hd]

/-- The payload of an instruction decodes under its own header, and what follows is left over (R67). -/
theorem decodeBody_payloadBytes_append (i : Instr) (rest : List Byte) :
    decodeBody i.widthField i.heightField i.modeByte (i.payloadBytes ++ rest) = .ok (i, rest) := by
  cases i <;> rfl

/-- Settles O12: the header bytes are parsed back to the instruction's header, and under it the payload decodes. -/
theorem decodeOfEncodeIsTheInstruction : Obligations.DecodeOfEncodeIsTheInstruction := by
  unfold Obligations.DecodeOfEncodeIsTheInstruction
  intro i rest
  rw [encode, List.append_assoc, decode_headerBytes_append, decodeBody_payloadBytes_append]

/-! ## What the decoder answers on every byte string (R66 to R69) -/

/-- The header bytes of assembled pairs are the bytes they were assembled from. -/
theorem headerBytes_bigEndian (a b c d m : Byte) :
    headerBytes (bigEndian a b) (bigEndian c d) m = [a, b, c, d, m] := by
  simp only [headerBytes, extract_hi_bigEndian, extract_lo_bigEndian]

theorem reqLen_eq_none_iff {m : Byte} : reqLen m = none ↔ m ≠ 1#8 ∧ m ≠ 2#8 ∧ m ≠ 3#8 ∧ m ≠ 4#8 := by
  rcases reqLen_cases m with ⟨rfl, -⟩ | ⟨rfl | rfl | rfl, -⟩ | ⟨hm, hr⟩
  case inr.inr => exact iff_of_true hr hm
  all_goals decide

theorem reqLen_eq_some_iff {m : Byte} {n : Nat} :
    reqLen m = some n ↔ (m = 1#8 ∧ n = 3) ∨ ((m = 2#8 ∨ m = 3#8 ∨ m = 4#8) ∧ n = 6) := by
  rcases reqLen_cases m with ⟨hm, hr⟩ | ⟨hm, hr⟩ | ⟨⟨h1, h2, h3, h4⟩, hr⟩ <;> rw [hr]
  · simp [hm, eq_comm]
  · have h1 : m ≠ 1#8 := by rcases hm with rfl | rfl | rfl <;> decide
    simp [hm, h1, eq_comm]
  · simp [h1, h2, h3, h4]

/-- What a decoder that needs `n` bytes answers on `bs` behind the bytes `hd`: too few, or an instruction of which `hd`
and the bytes it took are the encoding. -/
def DecodesFrom (n : Nat) (hd bs : List Byte) (r : Except DecodeError (Instr × List Byte)) : Prop :=
  (bs.length < n ∧ r = .error .payloadTooShort) ∨
    (n ≤ bs.length ∧ ∃ i rest, r = .ok (i, rest) ∧ hd ++ bs = encode i ++ rest)

/-- The bytes in front can be counted with those decoded. -/
theorem DecodesFrom.append {n : Nat} {hd bs : List Byte} {r : Except DecodeError (Instr × List Byte)}
    (h : DecodesFrom n hd bs r) : DecodesFrom (hd.length + n) [] (hd ++ bs) r := by
  rw [DecodesFrom, List.length_append, List.nil_append]
  rcases h with ⟨hl, e⟩ | ⟨hl, e⟩
  · exact .inl ⟨Nat.add_lt_add_left hl _, e⟩
  · exact .inr ⟨Nat.add_le_add_left hl _, e⟩

theorem decodesFrom_decodeTriple {mk : Byte → Byte → Byte → Instr} {hd : List Byte}
    (hmk : ∀ r g b, encode (mk r g b) = hd ++ [r, g, b]) (bs : List Byte) :
    DecodesFrom 3 hd bs (decodeTriple mk bs) := by
  rcases decodeTriple_cases mk bs with ⟨r, g, b, rest, rfl, e⟩ | hshort
  · exact .inr ⟨by simp, mk r g b, rest, e, by simp [hmk]⟩
  · exact .inl hshort

theorem decodesFrom_decodePair {mk : Byte → Byte → Byte → Byte → Byte → Byte → Instr} {hd : List Byte}
    (hmk : ∀ a b c d e f, encode (mk a b c d e f) = hd ++ [a, b, c, d, e, f]) (bs : List Byte) :
    DecodesFrom 6 hd bs (decodePair mk bs) := by
  rcases decodePair_cases mk bs with ⟨a, b, c, d, e, f, rest, rfl, hk⟩ | hshort
  · exact .inr ⟨by simp, mk a b c d e f, rest, hk, by simp [hmk]⟩
  · exact .inl hshort

theorem decodeBody_of_unknown {m : Byte} (hr : reqLen m = none) (w h : Half) (bs : List Byte) :
    decodeBody w h m bs = .error .unknownMode := by
  obtain ⟨h1, h2, h3, h4⟩ := reqLen_eq_none_iff.mp hr
  simp only [decodeBody, h1, h2, h3, h4, if_false]

/-- A valid mode needs as many payload bytes as R66 says. -/
theorem decodesFrom_decodeBody {m : Byte} {n : Nat} (hr : reqLen m = some n) (w h : Half) (bs : List Byte) :
    DecodesFrom n (headerBytes w h m) bs (decodeBody w h m bs) := by
  rcases reqLen_eq_some_iff.mp hr with ⟨rfl, rfl⟩ | ⟨rfl | rfl | rfl, rfl⟩
  · exact decodesFrom_decodeTriple (mk := .solid w h) (fun _ _ _ => rfl) bs
  · exact decodesFrom_decodePair (mk := .vgrad w h) (fun _ _ _ _ _ _ => rfl) bs
  · exact decodesFrom_decodePair (mk := .hgrad w h) (fun _ _ _ _ _ _ => rfl) bs
  · exact decodesFrom_decodePair (mk := .checker w h) (fun _ _ _ _ _ _ => rfl) bs

/-- The inversion of `decode`, in the order of its checks (R166): the header, the mode byte, the length. -/
theorem decode_cases (bs : List Byte) :
    (bs.length < 5 ∧ decode bs = .error .truncatedHeader) ∨
    (5 ≤ bs.length ∧ ∃ m, bs[4]? = some m ∧
      ((reqLen m = none ∧ decode bs = .error .unknownMode) ∨
        ∃ n, reqLen m = some n ∧ DecodesFrom (5 + n) [] bs (decode bs))) := by
  rcases decodeHeader_cases bs with ⟨a, b, c, d, m, pl, rfl, -⟩ | ⟨hl, e⟩
  · have hbs : a :: b :: c :: d :: m :: pl = headerBytes (bigEndian a b) (bigEndian c d) m ++ pl := by
      rw [headerBytes_bigEndian]; rfl
    refine .inr ⟨by simp, m, rfl, ?_⟩
    rw [hbs, decode_headerBytes_append]
    cases hr : reqLen m with
    | none => exact .inl ⟨rfl, decodeBody_of_unknown hr _ _ pl⟩
    | some n => exact .inr ⟨n, rfl, (decodesFrom_decodeBody hr _ _ pl).append⟩
  · exact .inl ⟨hl, by rw [decode, e]⟩

/-- Settles O13: of the outcomes of the decoder only one is an instruction. -/
theorem decodedBytesAreTheEncoding : Obligations.DecodedBytesAreTheEncoding := by
  unfold Obligations.DecodedBytesAreTheEncoding
  intro bs rest i hok
  rcases decode_cases bs with ⟨-, e⟩ | ⟨-, m, -, ⟨-, e⟩ | ⟨n, -, ⟨-, e⟩ | ⟨-, j, tr, e, hbs⟩⟩⟩ <;> rw [e] at hok <;>
    cases hok
  exact hbs

theorem decode_eq_truncatedHeader_iff {bs : List Byte} : decode bs = .error .truncatedHeader ↔ bs.length < 5 := by
  rcases decode_cases bs with ⟨hl, e⟩ | ⟨hl, m, -, ⟨-, e⟩ | ⟨n, -, ⟨-, e⟩ | ⟨-, i, rest, e, -⟩⟩⟩
  · exact iff_of_true e hl
  all_goals exact iff_of_false (by simp [e]) (Nat.not_lt.mpr hl)

theorem decode_eq_unknownMode_iff {bs : List Byte} :
    decode bs = .error .unknownMode ↔ 5 ≤ bs.length ∧ ∀ m, bs[4]? = some m → reqLen m = none := by
  rcases decode_cases bs with ⟨hl, e⟩ | ⟨hl, m, hm, ⟨hr, e⟩ | ⟨n, hr, ⟨-, e⟩ | ⟨-, i, rest, e, -⟩⟩⟩
  · exact iff_of_false (by simp [e]) fun h => Nat.not_lt.mpr h.left hl
  · simp [e, hl, hm, hr]
  all_goals simp [e, hm, hr]

theorem decode_eq_payloadTooShort_iff {bs : List Byte} :
    decode bs = .error .payloadTooShort ↔
      5 ≤ bs.length ∧ ∃ m n, bs[4]? = some m ∧ reqLen m = some n ∧ bs.length < 5 + n := by
  rcases decode_cases bs with ⟨hl, e⟩ | ⟨hl, m, hm, ⟨hr, e⟩ | ⟨n, hr, ⟨hn, e⟩ | ⟨hn, i, rest, e, -⟩⟩⟩
  · exact iff_of_false (by simp [e]) fun h => Nat.not_lt.mpr h.left hl
  · simp [e, hm, hr]
  · exact iff_of_true e ⟨hl, m, n, hm, hr, hn⟩
  · simp [e, hm, hr, hn]

/-- Settles O14: each error by its own lemma, with the modes and lengths of `reqLen` written out. -/
theorem decoderRejectsByNameInOrder : Obligations.DecoderRejectsByNameInOrder := by
  unfold Obligations.DecoderRejectsByNameInOrder
  intro bs
  refine ⟨decode_eq_truncatedHeader_iff, ?_, ?_⟩
  · simp only [decode_eq_unknownMode_iff, reqLen_eq_none_iff]
  · rw [decode_eq_payloadTooShort_iff]
    constructor
    · rintro ⟨hl, m, n, hm, hr, hn⟩
      rcases reqLen_eq_some_iff.mp hr with ⟨rfl, rfl⟩ | ⟨h, rfl⟩
      · exact .inl ⟨hm, hl, hn⟩
      · exact .inr ⟨by simpa [hm] using h, hl, hn⟩
    · rintro (⟨hm, hl, hn⟩ | ⟨hm | hm | hm, hl, hn⟩)
      · exact ⟨hl, _, 3, hm, rfl, hn⟩
      all_goals exact ⟨hl, _, 6, hm, rfl, hn⟩

/-- Settles O15: the decoder evaluates each command to what it stands for. -/
theorem sampleCommandsDecode : Obligations.SampleCommandsDecode := by
  unfold Obligations.SampleCommandsDecode
  exact ⟨rfl, rfl, rfl, rfl⟩

/-! ## The assembler's range check (R71, R146, R148) -/

/-- A result that is bytes where a range check passes and `RangeError` where it does not. -/
def RangeChecked (ok : Bool) (r : Except EncodeError (List Byte)) : Prop :=
  (ok = true → ∃ bs, r = .ok bs) ∧ (ok = false → r = .error .range)

/-- One result after the other, failing with the first failure. -/
def appendBytes (x y : Except EncodeError (List Byte)) : Except EncodeError (List Byte) := do
  return (← x) ++ (← y)

theorem encodeFile_eq_appendBytes (w h m : Int) (params : List Int) :
    encodeFile w h m params = appendBytes (encodeHeader w h m) (encodePayload m params) := by
  unfold encodeFile
  cases encodeHeader w h m <;> cases encodePayload m params <;> rfl

theorem assemble_eq_appendBytes (p : SourceProgram) :
    assemble p = appendBytes (assembleStmt p.stmt) (packBytes p.trail) := by
  unfold assemble
  cases assembleStmt p.stmt <;> cases packBytes p.trail <;> rfl

theorem rangeChecked_ite (ok : Bool) (bs : List Byte) :
    RangeChecked ok (if ok = true then .ok bs else .error .range) := by
  cases ok
  · exact ⟨nofun, fun _ => rfl⟩
  · exact ⟨fun _ => ⟨bs, rfl⟩, nofun⟩

theorem RangeChecked.append {a b : Bool} {x y : Except EncodeError (List Byte)} (hx : RangeChecked a x)
    (hy : RangeChecked b y) : RangeChecked (a && b) (appendBytes x y) := by
  obtain ⟨hxok, hxerr⟩ := hx
  obtain ⟨hyok, hyerr⟩ := hy
  cases a with
  | false => rw [hxerr rfl]; exact ⟨nofun, fun _ => rfl⟩
  | true =>
    obtain ⟨bs, rfl⟩ := hxok rfl
    cases b with
    | false => rw [hyerr rfl]; exact ⟨nofun, fun _ => rfl⟩
    | true => obtain ⟨tr, rfl⟩ := hyok rfl; exact ⟨fun _ => ⟨bs ++ tr, rfl⟩, nofun⟩

theorem rangeChecked_packBytes (vs : List Int) : RangeChecked (vs.all byteInRange) (packBytes vs) :=
  rangeChecked_ite _ _

/-- With a mode byte and its number of parameters, only the ranges of the dimensions and channels can fail. -/
theorem rangeChecked_encodeFile {m : Int} {params : List Int} (hm : byteInRange m = true)
    (hn : paramCount m = some params.length) (w h : Int) :
    RangeChecked (dimInRange w && dimInRange h && params.all byteInRange) (encodeFile w h m params) := by
  have hhd : RangeChecked (dimInRange w && dimInRange h) (encodeHeader w h m) := by
    rw [← Bool.and_true (_ && _), ← hm]
    exact rangeChecked_ite _ _
  have hpl : encodePayload m params = packBytes params := by simp only [encodePayload, hn, if_true]
  rw [encodeFile_eq_appendBytes, hpl]
  exact hhd.append (rangeChecked_packBytes params)

theorem rangeChecked_assembleStmt (st : Source) : RangeChecked st.wf (assembleStmt st) := by
  cases st with
  | bytes bs => exact rangeChecked_packBytes bs
  | solid | vgrad | hgrad | checker => exact rangeChecked_encodeFile rfl rfl _ _

/-- Settles O19: the statement is checked, then its trailing bytes. -/
theorem assemblerFailsExactlyOutOfRange : Obligations.AssemblerFailsExactlyOutOfRange := by
  unfold Obligations.AssemblerFailsExactlyOutOfRange
  intro p
  rw [assemble_eq_appendBytes]
  exact (rangeChecked_assembleStmt p.stmt).append (rangeChecked_packBytes p.trail)

end Sys2Proof

namespace Sys2Proof.Machine

/-! ## The step on a decoded instruction (R45, R60, R81, R92) -/

theorem step_of_inFlight {s : State} {i : Instr} (hts : s.turns = []) (hi : inFlight s = some i) :
    step s = exec i s := by
  rw [step_of_no_turns s hts, engineMove, hi]

theorem inFlight_of_header {s : State} (hp : s.phase = .header) : inFlight s = decoded (decode (command s)) := by
  simp only [inFlight, hp]

theorem inFlight_of_dispatch {s : State} (hp : s.phase = .dispatch) :
    inFlight s = decoded (decodeBody s.width s.height s.mode (payload s)) := by
  simp only [inFlight, hp]

theorem inFlight_of_latched {s : State} (hp : s.phase = .setup ∨ s.phase = .render) :
    inFlight s = latchedInstr s := by
  rcases hp with hp | hp <;> simp only [inFlight, hp]

/-- Settles O21: the decoded instruction is the one in flight, phase by phase. -/
theorem stepRunsTheDecodedInstruction : Obligations.StepRunsTheDecodedInstruction := by
  unfold Obligations.StepRunsTheDecodedInstruction
  intro s i hts
  refine ⟨fun rest hp hd => ?_, fun rest hp hd => ?_, fun hp hl => ?_⟩ <;> apply step_of_inFlight hts
  · rw [inFlight_of_header hp, hd]; rfl
  · rw [inFlight_of_dispatch hp, hd]; rfl
  · rw [inFlight_of_latched hp, hl]

/-! ## A placed command (R65, R80) -/

/-- A command of at most 11 bytes is read back whole. -/
theorem command_loadAndBegin {bs : List Byte} (hl : bs.length ≤ 11) (s : State) :
    command (loadAndBegin bs s) = bs := by
  rw [command_eq_take, program_loadAndBegin, List.take_of_length_le hl]

theorem cleared_loadAndBegin (bs : List Byte) (s : State) : Cleared (loadAndBegin bs s) :=
  ⟨rfl, rfl, rfl, rfl, rfl, rfl, rfl, rfl⟩

theorem decoded_decode_tableBytes (nbits w : Nat) :
    decoded (decode (tableBytes nbits w)) = decodeTableWord nbits w := by
  unfold decoded decodeTableWord
  cases decode (tableBytes nbits w) <;> rfl

/-- Settles O22: the command read back from the placed word is the word's 11 bytes. -/
theorem fetchWordRunsNext : Obligations.FetchWordRunsNext := by
  unfold Obligations.FetchWordRunsNext State.withFetchWord
  intro s nbits w i hi
  refine ⟨step_of_inFlight rfl ?_, rfl, cleared_loadAndBegin _ s⟩
  rw [inFlight_of_header rfl, command_loadAndBegin (tableBytes_length nbits w).le, decoded_decode_tableBytes, hi]

end Sys2Proof.Machine

/-! SUPPORT. START and the HEADER step (40_header_decode.md): what the strobe does, what HEADER loads or traps on, that
an encoded header is parsed back, and the step as the phase machine. -/

namespace Sys2Proof

/-! ## An encoded header (R83, R145) -/

/-- A number in the range of a field is the value of one. -/
theorem exists_bitVec_of_range {v : Int} {n : Nat} (h0 : 0 ≤ v) (hv : v < (2 ^ n : Nat)) :
    ∃ b : BitVec n, (b.toNat : Int) = v :=
  ⟨BitVec.ofInt n v, by rw [BitVec.toNat_ofInt, Int.emod_eq_of_lt h0 hv, Int.toNat_of_nonneg h0]⟩

/-- The high byte of a field, as the encoder computes it (R145). -/
theorem ofInt_toNat_div_256 (w : Half) : BitVec.ofInt 8 ((w.toNat : Int) / 256) = w.extractLsb' 8 8 := by
  apply BitVec.eq_of_toNat_eq
  simp only [BitVec.toNat_ofInt, BitVec.extractLsb'_toNat, Nat.shiftRight_eq_div_pow]
  omega

/-- The low byte of a field, as the encoder computes it (R145). -/
theorem ofInt_toNat_mod_256 (w : Half) : BitVec.ofInt 8 ((w.toNat : Int) % 256) = w.extractLsb' 0 8 := by
  apply BitVec.eq_of_toNat_eq
  simp only [BitVec.toNat_ofInt, BitVec.extractLsb'_toNat, Nat.shiftRight_eq_div_pow]
  omega

theorem dimInRange_toNat (w : Half) : dimInRange w.toNat = true := by
  have := w.isLt
  simp only [dimInRange, Bool.and_eq_true, decide_eq_true_eq]
  omega

theorem byteInRange_toNat (b : Byte) : byteInRange b.toNat = true := by
  have := b.isLt
  simp only [byteInRange, Bool.and_eq_true, decide_eq_true_eq]
  omega

/-- The fields of a header are in range, and `encode_header` emits its five bytes. -/
theorem encodeHeader_toNat (w h : Half) (m : Byte) :
    encodeHeader w.toNat h.toNat m.toNat = .ok (headerBytes w h m) := by
  have hm : BitVec.ofInt 8 (m.toNat : Int) = m := by rw [BitVec.ofInt_natCast, BitVec.ofNat_toNat, BitVec.setWidth_eq]
  simp only [encodeHeader, dimInRange_toNat, byteInRange_toNat, Bool.and_self, if_true, ofInt_toNat_div_256,
    ofInt_toNat_mod_256, hm, headerBytes]

/-- The header bytes are parsed back, whatever follows them. -/
theorem decodeHeader_headerBytes_append (w h : Half) (m : Byte) (pl : List Byte) :
    decodeHeader (headerBytes w h m ++ pl) = .ok (w, h, m, pl) := by
  simp [headerBytes, decodeHeader, bigEndian_extract]

end Sys2Proof

namespace Sys2Proof.Machine

variable {s : State}

/-! ## The step and its pseudocode -/

/-- Settles O24: with no turn pending the step is the engine's move, and that is the phase machine's. -/
theorem stepIsThePhaseMachine : Obligations.StepIsThePhaseMachine := by
  unfold Obligations.StepIsThePhaseMachine
  intro s hts
  rw [step_of_no_turns s hts, engineMove_eq_phaseStep]

/-! ## HEADER (R81, R83) -/

theorem step_of_header (hts : s.turns = []) (hp : s.phase = .header) : step s = .next (headerStep s) := by
  rw [step_of_no_turns s hts, engineMove_of_header hp]

theorem headerStep_of_short (hlen : s.len < 5) : headerStep s = trapEntry .truncatedHeader s := if_pos hlen

theorem headerStep_of_long (hlen : 5 ≤ s.len) :
    headerStep s = loadHeader (cmdHalf s 0) (cmdHalf s 2) (cmdByte s 4) s := if_neg (Nat.not_lt.mpr hlen)

/-- HEADER on a program that begins with the bytes of a header loads that header. -/
theorem headerStep_of_program_eq {w h : Half} {m : Byte} {pl : List Byte}
    (hprog : program s = headerBytes w h m ++ pl) : headerStep s = loadHeader w h m s := by
  have hlen : 5 ≤ s.len := by rw [← program_length, hprog]; simp [headerBytes]
  have hbyte : ∀ i, i < 5 → cmdByte s i = byteAt (headerBytes w h m ++ pl) i := by
    intro i hi
    rw [← hprog, byteAt_program s i (by omega)]
  have hw : cmdHalf s 0 = w := by
    rw [cmdHalf, hbyte 0 (by decide), hbyte 1 (by decide)]; exact bigEndian_extract w
  have hh : cmdHalf s 2 = h := by
    rw [cmdHalf, hbyte 2 (by decide), hbyte 3 (by decide)]; exact bigEndian_extract h
  have hm : cmdByte s 4 = m := hbyte 4 (by decide)
  rw [headerStep_of_long hlen, hw, hh, hm]

/-- Settles O18: numbers in range are those of a header, whose bytes the parser and the HEADER step read back. -/
theorem headerRoundTrip : Obligations.HeaderRoundTrip := by
  unfold Obligations.HeaderRoundTrip
  intro w h m pl hw0 hw hh0 hh hm0 hm
  obtain ⟨w, rfl⟩ := exists_bitVec_of_range (n := 16) hw0 (by omega)
  obtain ⟨h, rfl⟩ := exists_bitVec_of_range (n := 16) hh0 (by omega)
  obtain ⟨m, rfl⟩ := exists_bitVec_of_range (n := 8) hm0 (by omega)
  refine ⟨headerBytes w h m, encodeHeader_toNat w h m, w, h, m, decodeHeader_headerBytes_append w h m pl, rfl, rfl, rfl,
    fun s hts hp hprog => ?_⟩
  rw [step_of_header hts hp, headerStep_of_program_eq hprog]
  rfl

/-- Settles O33: the two outcomes of HEADER, with the pairs of bytes as numbers. -/
theorem headerStepLoadsOrTraps : Obligations.HeaderStepLoadsOrTraps := by
  unfold Obligations.HeaderStepLoadsOrTraps
  intro s hts hp
  rw [step_of_header hts hp]
  refine ⟨fun hlen => ?_, fun hlen => ⟨cmdHalf s 0, cmdHalf s 2, bigEndian_toNat _ _, bigEndian_toNat _ _, ?_⟩⟩
  · rw [headerStep_of_short hlen]; rfl
  · rw [headerStep_of_long hlen]; rfl

theorem exec_of_header (hp : s.phase = .header) (i : Instr) :
    exec i s = .next (loadHeader i.widthField i.heightField i.modeByte s) := by
  rw [exec_eq_instrStep, instrStep, hp]

/-- Settles O25: in HEADER an instruction loads its fields, which each constructor spells out. -/
theorem execInHeaderLatchesTheHeader : Obligations.ExecInHeaderLatchesTheHeader := by
  unfold Obligations.ExecInHeaderLatchesTheHeader
  intro s hp
  exact ⟨fun w h r g b => exec_of_header hp (.solid w h r g b),
    fun w h r1 g1 b1 r2 g2 b2 => exec_of_header hp (.vgrad w h r1 g1 b1 r2 g2 b2),
    fun w h r1 g1 b1 r2 g2 b2 => exec_of_header hp (.hgrad w h r1 g1 b1 r2 g2 b2),
    fun w h r1 g1 b1 r2 g2 b2 => exec_of_header hp (.checker w h r1 g1 b1 r2 g2 b2)⟩

/-! ## START (R80, R194) -/

theorem startCmd_of_busy (hb : busyFlag s = true) : startCmd s = s := by
  rw [startCmd, halted, hb]; rfl

theorem startCmd_of_not_busy (hb : busyFlag s = false) : startCmd s = beginRun s := by
  rw [startCmd, halted, hb]; rfl

theorem cleared_beginRun (s : State) : Cleared (beginRun s) := ⟨rfl, rfl, rfl, rfl, rfl, rfl, rfl, rfl⟩

/-- R22: `CTRL` written with bit 0 set and bit 1 clear is START. -/
theorem writeCtrl_of_start {v : Nat} (h0 : v % 2 = 1) (h1 : v / 2 % 2 = 0) : writeCtrl v s = startCmd s := by
  have hstart : v.testBit 0 = true := by rw [testBit_zero_iff, h0]; rfl
  have hreset : v.testBit 1 = false := by rw [testBit_one_iff, h1]; rfl
  simp only [writeCtrl, hstart, hreset, if_true, Bool.false_eq_true, if_false]

/-- Settles O47: the write is START, which a busy engine ignores and a halted one obeys. -/
theorem startClearsAndBegins : Obligations.StartClearsAndBegins := by
  unfold Obligations.StartClearsAndBegins
  intro s ts v hts h0 h1
  have hstep : step s = .next (startCmd (setTurns ts s)) := by
    rw [step_of_host s hts, hostAct, writeReg, writeCtrl_of_start h0 h1]
  rw [hstep]
  refine ⟨fun hb => ?_, fun hb => ?_⟩
  · rw [startCmd_of_busy (s := setTurns ts s) hb]
  · rw [startCmd_of_not_busy (s := setTurns ts s) hb]
    exact ⟨_, rfl, cleared_beginRun _, rfl, rfl, rfl, rfl, rfl, rfl, rfl, rfl, rfl⟩

end Sys2Proof.Machine

/-! SUPPORT. DISPATCH, SETUP and the finished image (41_dispatch_and_scan.md R90 to R99): the two steps and what every
instruction does in them, and what `PIX` holds at `DONE`. -/

namespace Sys2Proof.Machine

variable {s : State}

/-! ## DISPATCH (R90 to R92) -/

theorem step_of_dispatch (hts : s.turns = []) (hp : s.phase = .dispatch) : step s = .next (dispatchStep s) := by
  rw [step_of_no_turns s hts, engineMove_of_dispatch hp]

theorem exec_of_dispatch (hp : s.phase = .dispatch) (i : Instr) : exec i s = .next (instrLoad i s) := by
  rw [exec_eq_instrStep, instrStep, hp]

/-- R91: a valid mode with too few bytes for its payload. -/
theorem dispatchStep_of_cut {n : Nat} (hr : reqLen s.mode = some n) (hn : s.len < 5 + n) :
    dispatchStep s = trapEntry .payloadTooShort s := by
  have hlen : (s.len : Int) - 5 < n := by omega
  simp only [dispatchStep, hr, hlen, if_true]

/-- R92: `C1` is loaded, and `C2` when the payload has six bytes. -/
theorem dispatchStep_of_whole {n : Nat} (hr : reqLen s.mode = some n) (hn : 5 + n ≤ s.len) :
    dispatchStep s = loadPayloadP (cmdColour s 5) (if n = 6 then cmdColour s 8 else s.c2) s := by
  have hlen : ¬ (s.len : Int) - 5 < n := by omega
  simp only [dispatchStep, hr, hlen, if_false]
  split <;> rfl

theorem reqLen_eq_none_of_toNat {m : Byte} (hm : m.toNat ∉ [1, 2, 3, 4]) : reqLen m = none := by
  rw [reqLen_eq_none_iff]
  refine ⟨?_, ?_, ?_, ?_⟩ <;> rintro rfl <;> exact hm (by decide)

theorem reqLen_eq_six {m : Byte} (hm : m = 2#8 ∨ m = 3#8 ∨ m = 4#8) : reqLen m = some 6 :=
  reqLen_eq_some_iff.mpr (.inr ⟨hm, rfl⟩)

/-- Settles O34: the mode decides the required length, and that the outcome of DISPATCH. -/
theorem dispatchStepChecksThenLoads : Obligations.DispatchStepChecksThenLoads := by
  unfold Obligations.DispatchStepChecksThenLoads
  intro s hts hp
  rw [step_of_dispatch hts hp]
  refine ⟨fun hm => ?unknown, ?cut, fun hm hlen => ?triple, fun hm hlen => ?pair⟩
  case unknown => rw [dispatchStep_of_unknown (reqLen_eq_none_of_toNat hm)]; rfl
  case cut =>
    rintro (⟨hm, hlen⟩ | ⟨hm, hlen⟩)
    · rw [dispatchStep_of_cut (n := 3) (by rw [hm]; rfl) hlen]; rfl
    · rw [dispatchStep_of_cut (reqLen_eq_six hm) hlen]; rfl
  case triple => rw [dispatchStep_of_whole (n := 3) (by rw [hm]; rfl) hlen]; rfl
  case pair => rw [dispatchStep_of_whole (reqLen_eq_six hm) hlen]; rfl

/-- Settles O26: in DISPATCH an instruction runs its payload load, which each constructor spells out. -/
theorem execInDispatchLatchesThePayload : Obligations.ExecInDispatchLatchesThePayload := by
  unfold Obligations.ExecInDispatchLatchesThePayload
  intro s hp
  exact ⟨fun w h r g b => exec_of_dispatch hp (.solid w h r g b),
    fun w h r1 g1 b1 r2 g2 b2 => exec_of_dispatch hp (.vgrad w h r1 g1 b1 r2 g2 b2),
    fun w h r1 g1 b1 r2 g2 b2 => exec_of_dispatch hp (.hgrad w h r1 g1 b1 r2 g2 b2),
    fun w h r1 g1 b1 r2 g2 b2 => exec_of_dispatch hp (.checker w h r1 g1 b1 r2 g2 b2)⟩

/-! ## SETUP (R94, R165) -/

theorem step_of_setup (hts : s.turns = []) (hp : s.phase = .setup) : step s = .next (setupStep s) := by
  rw [step_of_no_turns s hts, engineMove_of_setup hp]

theorem exec_of_setup (hp : s.phase = .setup) (i : Instr) : exec i s = .next (setupStep s) := by
  rw [exec_eq_instrStep, instrStep, hp]

theorem setupStep_of_nonzero (hw : s.width ≠ 0#16) (hh : s.height ≠ 0#16) :
    setupStep s = { s with x := 0#16, y := 0#16, phase := .render } := if_neg (not_or.mpr ⟨hw, hh⟩)

/-- Settles O35: the three outcomes of SETUP. -/
theorem setupStepAppliesTheZeroPolicy : Obligations.SetupStepAppliesTheZeroPolicy := by
  unfold Obligations.SetupStepAppliesTheZeroPolicy
  intro s hts hp
  rw [step_of_setup hts hp]
  refine ⟨fun hd hz => ?_, fun hd hz => ?_, fun hw hh => ?_⟩
  · rw [setupStep_of_reject hd hz]; rfl
  · rw [setupStep_of_emitEmpty hd hz]
  · rw [setupStep_of_nonzero hw hh]

/-- Settles O27: in SETUP every instruction makes the step of `setupStep`, whose three outcomes these are. -/
theorem execInSetupAppliesTheZeroPolicy : Obligations.ExecInSetupAppliesTheZeroPolicy := by
  unfold Obligations.ExecInSetupAppliesTheZeroPolicy
  intro i s hp
  rw [exec_of_setup hp]
  refine ⟨fun hw hh => ?_, fun hd hz => ?_, fun hd hz => ?_⟩
  · rw [setupStep_of_nonzero hw hh]
  · rw [setupStep_of_emitEmpty hd hz]
  · rw [setupStep_of_reject hd hz]; rfl

/-! ## The finished image (R46, R99) -/

theorem inv_done (hi : Inv s) (hp : s.phase = .done) :
    (reqLen s.mode).isSome ∧ PixIsRaster s (s.width.toNat * s.height.toNat) := by
  obtain ⟨-, -, -, -, hphase⟩ := hi
  simp only [PhaseInv, hp] at hphase
  obtain ⟨⟨hm, -⟩, hr, -⟩ := hphase
  exact ⟨hm, hr⟩

/-- In a full raster every position of the image holds its colour. -/
theorem read_pix_of_full_raster (hr : PixIsRaster s (s.width.toNat * s.height.toNat)) {x y : Nat}
    (hx : x < s.width.toNat) (hy : y < s.height.toNat) :
    Memory.read s.pix (y * s.width.toNat + x) = colourAt s x y := by
  obtain ⟨-, hval⟩ := hr
  apply hval x y hx
  rw [Nat.mul_comm y, Nat.mul_comm _ s.height.toNat]
  exact Nat.mul_add_lt_mul_of_lt_of_lt hy hx

/-- Settles O52: `DONE` has the full raster, the colour rule of a valid mode, and no error recorded. -/
theorem doneImageHoldsEveryPixel : Obligations.DoneImageHoldsEveryPixel := by
  unfold Obligations.DoneImageHoldsEveryPixel
  intro s hi hp
  obtain ⟨hm, hr⟩ := inv_done hi hp
  refine ⟨hi.err_eq_noError (by simp [hp]), fun x y hx hy => ?_, fun i => read_pix_of_pixIsRaster hr⟩
  obtain ⟨c, hc⟩ := colourAt_of_mode s hm x y
  exact ⟨c, hc, (read_pix_of_full_raster hr hx hy).trans hc⟩

end Sys2Proof.Machine

/-! SUPPORT. A whole run (41_dispatch_and_scan.md R93, R98 to R100): the states after HEADER and DISPATCH of a command
that is an instruction, that its trailing bytes do not reach them, and the scan to the last pixel. -/

namespace Sys2Proof.Machine

variable {s s' : State}

/-! ## HEADER and DISPATCH of a run -/

theorem three_le_of_reqLen {m : Byte} {n : Nat} (hr : reqLen m = some n) : 3 ≤ n := by
  rcases reqLen_eq_some_iff.mp hr with ⟨-, rfl⟩ | ⟨-, rfl⟩ <;> decide

/-- After HEADER of the run that START begins in `s`. -/
def headerLoaded (s : State) : State := loadHeader (cmdHalf s 0) (cmdHalf s 2) (cmdByte s 4) (beginRun s)

/-- After DISPATCH of that run, where `n` payload bytes are required. -/
def payloadLoaded (n : Nat) (s : State) : State :=
  loadPayloadP (cmdColour s 5) (if n = 6 then cmdColour s 8 else Colour.zero) (headerLoaded s)

theorem step_beginRun_of_short (hts : s.turns = []) (hlen : s.len < 5) :
    step (beginRun s) = .next (trapEntry .truncatedHeader (beginRun s)) := by
  rw [step_of_header (s := beginRun s) hts rfl, headerStep_of_short (s := beginRun s) hlen]

theorem step_beginRun_of_long (hts : s.turns = []) (hlen : 5 ≤ s.len) :
    step (beginRun s) = .next (headerLoaded s) := by
  rw [step_of_header (s := beginRun s) hts rfl, headerStep_of_long (s := beginRun s) hlen]; rfl

theorem step_headerLoaded_of_unknown (hts : s.turns = []) (hr : reqLen (cmdByte s 4) = none) :
    step (headerLoaded s) = .next (trapEntry .unknownMode (headerLoaded s)) := by
  rw [step_of_dispatch (s := headerLoaded s) hts rfl, dispatchStep_of_unknown (s := headerLoaded s) hr]

section
variable {n : Nat} (hts : s.turns = []) (hr : reqLen (cmdByte s 4) = some n)
include hts hr

theorem step_headerLoaded_of_cut (hn : s.len < 5 + n) :
    step (headerLoaded s) = .next (trapEntry .payloadTooShort (headerLoaded s)) := by
  rw [step_of_dispatch (s := headerLoaded s) hts rfl, dispatchStep_of_cut (s := headerLoaded s) hr hn]

theorem step_headerLoaded_of_whole (hn : 5 + n ≤ s.len) : step (headerLoaded s) = .next (payloadLoaded n s) := by
  rw [step_of_dispatch (s := headerLoaded s) hts rfl, dispatchStep_of_whole (s := headerLoaded s) hr hn]; rfl

end

/-! ## The bytes that HEADER and DISPATCH read (R93) -/

section
variable {n : Nat} (hb : ∀ i, i < 5 + n → cmdByte s' i = cmdByte s i)
include hb

theorem headerLoaded_withEngineOf : headerLoaded s' = withEngineOf (beginRun s') (headerLoaded s) := by
  simp only [headerLoaded, cmdHalf, hb 0 (by omega), hb 1 (by omega), hb 2 (by omega), hb 3 (by omega), hb 4 (by omega)]
  rfl

theorem payloadLoaded_withEngineOf (hr : reqLen (cmdByte s 4) = some n) :
    payloadLoaded n s' = withEngineOf (beginRun s') (payloadLoaded n s) := by
  have hc2 : (if n = 6 then cmdColour s' 8 else Colour.zero) = if n = 6 then cmdColour s 8 else Colour.zero := by
    split
    · simp only [cmdColour, hb 8 (by omega), hb 9 (by omega), hb 10 (by omega)]
    · rfl
  have hn : 3 ≤ n := three_le_of_reqLen hr
  have hc1 : cmdColour s' 5 = cmdColour s 5 := by
    simp only [cmdColour, hb 5 (by omega), hb 6 (by omega), hb 7 (by omega)]
  rw [payloadLoaded, hc1, hc2, headerLoaded_withEngineOf hb]
  rfl

end

/-- A byte of the program at an offset inside what it begins with. -/
theorem cmdByte_of_program_eq {bs rest : List Byte} (hprog : program s = bs ++ rest) {i : Nat} (hi : i < bs.length) :
    cmdByte s i = byteAt bs i := by
  have hlen : i < s.len := by rw [← program_length, hprog, List.length_append]; omega
  rw [← byteAt_program s i hlen, hprog, byteAt, List.getD_append _ _ _ _ hi, byteAt]

/-! ## Trailing bytes -/

/-- The engine of `s`, on its own host side and on that of `h`, goes through the same engine states. -/
def RunsAlike (h s : State) : Prop :=
  ∀ k, ∃ t, runFor k s = .next t ∧ runFor k (withEngineOf h s) = .next (withEngineOf h t)

theorem RunsAlike.of_step {h u : State} (hs : step s = .next u)
    (hs' : step (withEngineOf h s) = .next (withEngineOf h u)) (hu : RunsAlike h u) : RunsAlike h s := by
  intro k
  cases k with
  | zero => exact ⟨s, rfl, rfl⟩
  | succ k => rw [runFor_succ_of_next k hs, runFor_succ_of_next k hs']; exact hu k

/-- Past DISPATCH the engine's move reads the policy and nothing else of the host's side (R45). -/
theorem engineMove_withEngineOf_of_loaded {h t : State} (hz : h.zdim = s.zdim) (hh : s.phase ≠ .header)
    (hd : s.phase ≠ .dispatch) (ht : engineMove s = .next t) :
    engineMove (withEngineOf h s) = .next (withEngineOf h t) := by
  rcases engineMove_cases ht with ⟨hp, -⟩ | ⟨hp, -⟩ | ⟨hp, rfl⟩ | ⟨hp, c, hc, rfl⟩ | ⟨hp, e⟩
  · exact absurd hp hh
  · exact absurd hp hd
  · rw [engineMove_of_setup (s := withEngineOf h s) hp, setupStep_withEngineOf hz]
  · rw [engineMove_of_render (s := withEngineOf h s) hp hc, renderStep_withEngineOf]
  · rw [e, engineMove_of_halted (s := withEngineOf h s) hp]

/-- Past DISPATCH with a checked mode; the engine stays there. -/
def Loaded (s : State) : Prop := ModeChecked s ∧ s.phase ≠ .header ∧ s.phase ≠ .dispatch

theorem setupStep_phase (s : State) :
    (setupStep s).phase = .error ∨ (setupStep s).phase = .done ∨ (setupStep s).phase = .render := by
  rcases setupStep_cases s with ⟨-, -, e⟩ | ⟨-, -, e⟩ | ⟨-, -, e⟩ <;> simp [e]

theorem renderStep_phase (c : Colour) (s : State) :
    (renderStep c s).phase = s.phase ∨ (renderStep c s).phase = .done := by
  rcases advance_cases (writePix (pixIndex s) c s) with ⟨-, e⟩ | ⟨-, -, e⟩ | ⟨-, -, e⟩ <;> simp [renderStep, e]

theorem engineMove_of_loaded (hl : Loaded s) : ∃ t, engineMove s = .next t ∧ Loaded t := by
  obtain ⟨hm, hh, hd⟩ := hl
  obtain ⟨t, ht, hmt⟩ := engineMove_of_modeChecked hm
  refine ⟨t, ht, hmt, ?_⟩
  rcases engineMove_cases ht with ⟨hp, -⟩ | ⟨hp, -⟩ | ⟨-, rfl⟩ | ⟨-, c, -, rfl⟩ | ⟨-, rfl⟩
  · exact absurd hp hh
  · exact absurd hp hd
  · rcases setupStep_phase s with e | e | e <;> simp [e]
  · rcases renderStep_phase c s with e | e <;> simp [e, hh, hd]
  · exact ⟨hh, hd⟩

theorem runsAlike_of_loaded {h : State} (hz : h.zdim = s.zdim) (hh : h.turns = []) (hs : s.turns = [])
    (hl : Loaded s) : RunsAlike h s := by
  intro k
  induction k generalizing s with
  | zero => exact ⟨s, rfl, rfl⟩
  | succ k ih =>
    obtain ⟨u, hu, hlu⟩ := engineMove_of_loaded hl
    obtain ⟨-, hhdr, hdsp⟩ := hl
    have hu' := engineMove_withEngineOf_of_loaded hz hhdr hdsp hu
    have hside := engineMove_keeps_hostSide hu
    have hzu : u.zdim = s.zdim := by rw [hside]; rfl
    have hsu : u.turns = [] := by rw [hside]; exact hs
    rw [runFor_succ_of_next k ((step_of_no_turns s hs).trans hu),
      runFor_succ_of_next k ((step_of_no_turns (withEngineOf h s) hh).trans hu')]
    exact ih (hz.trans hzu.symm) hsu hlu

theorem loaded_payloadLoaded {n : Nat} (hr : reqLen (cmdByte s 4) = some n) : Loaded (payloadLoaded n s) :=
  ⟨fun _ => Option.isSome_of_eq_some hr, nofun, nofun⟩

/-- Settles O59: the two engines are equal after START, HEADER and DISPATCH, and past DISPATCH `CMD` is not read. -/
theorem trailingBytesDoNotMatter : Obligations.TrailingBytesDoNotMatter := by
  unfold Obligations.TrailingBytesDoNotMatter
  intro s s' bs rest rest' n hs hs' hr hlen hprog hprog' hz k
  have hb : ∀ i, i < 5 + n → cmdByte s' i = cmdByte s i := by
    intro i hi
    rw [← hlen] at hi
    rw [cmdByte_of_program_eq hprog' hi, cmdByte_of_program_eq hprog hi]
  have hr' : reqLen (cmdByte s 4) = some n := by rw [cmdByte_of_program_eq hprog (by omega), hr]
  have hn : 5 + n ≤ s.len := by rw [← program_length, hprog, List.length_append]; omega
  have hn' : 5 + n ≤ s'.len := by rw [← program_length, hprog', List.length_append]; omega
  have halike : RunsAlike (beginRun s') (beginRun s) := by
    refine .of_step (step_beginRun_of_long hs (by omega)) ?header (.of_step (step_headerLoaded_of_whole hs hr' hn)
      ?dispatch (runsAlike_of_loaded hz.symm hs' hs (loaded_payloadLoaded hr')))
    case header =>
      rw [← beginRun_eq_withEngineOf, ← headerLoaded_withEngineOf hb, step_beginRun_of_long hs' (by omega)]
    case dispatch =>
      rw [← headerLoaded_withEngineOf hb, ← payloadLoaded_withEngineOf hb hr',
        step_headerLoaded_of_whole hs' (by rw [hb 4 (by omega), hr']) hn']
  obtain ⟨t, ht, ht'⟩ := halike k
  rw [← beginRun_eq_withEngineOf] at ht'
  exact ⟨t, _, ht, ht', sameEngine_withEngineOf _ t⟩

end Sys2Proof.Machine

/-! SUPPORT. The run as the whole-run function (41_dispatch_and_scan.md R98 to R100): the scan by induction on the
pixels still to write, and in front of it the steps that end the run early or load the operands. -/

namespace Sys2Proof.Machine

variable {s : State}

/-! ## Runs of a known length -/

/-- The engine is busy for `n` steps and then owes the host `r`. -/
def RunsTo (n : Nat) (r : Except ErrKind Image) (s : State) : Prop :=
  (∀ k, k < n → ∃ u : State, runFor k s = .next u ∧ busyFlag u = true) ∧
    ∃ t : State, runFor n s = .next t ∧ runResult t = some r

theorem runsTo_zero {r : Except ErrKind Image} (h : runResult s = some r) : RunsTo 0 r s :=
  ⟨fun _ hk => absurd hk (Nat.not_lt_zero _), s, rfl, h⟩

theorem runsTo_trapEntry (k : ErrKind) (s : State) : RunsTo 0 (.error k) (trapEntry k s) := runsTo_zero rfl

theorem RunsTo.of_step {n : Nat} {r : Except ErrKind Image} {u : State} (hb : busyFlag s = true)
    (hs : step s = .next u) (hu : RunsTo n r u) : RunsTo (n + 1) r s := by
  obtain ⟨hbusy, t, ht, hres⟩ := hu
  refine ⟨fun k hk => ?_, t, by rw [runFor_succ_of_next n hs, ht], hres⟩
  cases k with
  | zero => exact ⟨s, rfl, hb⟩
  | succ k => rw [runFor_succ_of_next k hs]; exact hbusy k (Nat.lt_of_succ_lt_succ hk)

/-! ## The scan -/

/-- The image that the operand registers describe (R100). -/
def rasterImage (s : State) : Image :=
  ⟨s.width.toNat, s.height.toNat, rasterPixels s.mode s.c1 s.c2 s.width.toNat s.height.toNat⟩

theorem rasterImage_renderStep (c : Colour) : rasterImage (renderStep c s) = rasterImage s := by
  simp [rasterImage]

/-- R99: the triplets of a full raster, in index order, are the colours row by row. -/
theorem runResult_of_full_raster (hp : s.phase = .done) (hr : PixIsRaster s (s.width.toNat * s.height.toNat)) :
    runResult s = some (.ok (rasterImage s)) := by
  have hpix : (List.range (s.width.toNat * s.height.toNat)).filterMap (Memory.read s.pix) =
      rasterPixels s.mode s.c1 s.c2 s.width.toNat s.height.toNat := by
    rw [filterMap_range_mul]
    refine List.flatMap_congr fun y hy => List.filterMap_congr fun x hx => ?_
    exact read_pix_of_full_raster hr (List.mem_range.mp hx) (List.mem_range.mp hy)
  simp only [runResult, hp, hpix, rasterImage]

theorem step_of_render (hts : s.turns = []) (hp : s.phase = .render) {c : Colour}
    (hc : colourAt s s.x.toNat s.y.toNat = some c) : step s = .next (renderStep c s) := by
  rw [step_of_no_turns s hts, engineMove_of_render hp hc]

/-- R98, R99: from a scan position with `n` pixels to write, `n` steps finish the image. -/
theorem runsTo_of_render {n : Nat} (hts : s.turns = []) (hp : s.phase = .render) (hm : (reqLen s.mode).isSome)
    (hx : s.x.toNat < s.width.toNat) (hy : s.y.toNat < s.height.toNat) (hr : PixIsRaster s (pixIndex s))
    (hn : pixIndex s + n = s.width.toNat * s.height.toNat) : RunsTo n (.ok (rasterImage s)) s := by
  induction n generalizing s with
  | zero => exact absurd hn (pixIndex_lt hx hy).ne
  | succ n ih =>
    obtain ⟨c, hc⟩ := colourAt_of_mode s hm s.x.toNat s.y.toNat
    have hr' := pixIsRaster_renderStep hx hc hr
    have hsize : (renderStep c s).width.toNat * (renderStep c s).height.toNat = pixIndex s + 1 + n := by
      rw [renderStep_width, renderStep_height]; omega
    refine .of_step (by rw [busyFlag, hp]) (step_of_render hts hp hc) ?_
    rw [← rasterImage_renderStep c]
    rcases renderStep_position c hp hx hy with ⟨ep, ex, ey, en⟩ | ⟨ep, -, -, en⟩
    · refine ih ?_ ep ?_ ?_ ?_ ?_ ?_
      · rw [renderStep_turns, hts]
      · rwa [renderStep_mode]
      · rwa [renderStep_width]
      · rwa [renderStep_height]
      · rwa [en]
      · rw [en, hsize]
    · obtain rfl : n = 0 := by omega
      exact runsTo_zero (runResult_of_full_raster ep (by rwa [hsize]))

/-! ## SETUP -/

/-- What a run ends with once the operands are loaded (R94, R100). -/
def loadedResult (s : State) : Except ErrKind Image :=
  if s.width = 0#16 ∨ s.height = 0#16 then
    match s.zdim with
    | .reject => .error .emptyDimension
    | .emitEmpty => .ok ⟨s.width.toNat, s.height.toNat, []⟩
  else .ok (rasterImage s)

theorem imageSize_eq_zero (hd : s.width = 0#16 ∨ s.height = 0#16) : s.width.toNat * s.height.toNat = 0 := by
  rcases hd with hd | hd <;> simp [hd]

/-- R94, R98: the SETUP step, and then the scan if there are pixels. -/
theorem runsTo_of_setup (hts : s.turns = []) (hp : s.phase = .setup) (hm : (reqLen s.mode).isSome)
    (hpix : s.pix = []) : RunsTo (s.width.toNat * s.height.toNat + 1) (loadedResult s) s := by
  refine .of_step (by rw [busyFlag, hp]) (step_of_setup hts hp) ?_
  rcases setupStep_cases s with ⟨hd, hz, e⟩ | ⟨hd, hz, e⟩ | ⟨hw, hh, e⟩ <;> rw [e]
  · rw [loadedResult, if_pos hd, hz, imageSize_eq_zero hd]
    exact runsTo_trapEntry _ s
  · rw [loadedResult, if_pos hd, hz, imageSize_eq_zero hd]
    refine runsTo_zero ?_
    simp [runResult, imageSize_eq_zero hd]
  · rw [loadedResult, if_neg (not_or.mpr ⟨hw, hh⟩)]
    have hidx : pixIndex { s with x := 0#16, y := 0#16, phase := .render } = 0 := by simp [pixIndex]
    refine runsTo_of_render (s := { s with x := 0#16, y := 0#16, phase := .render }) hts rfl hm ?_ ?_ ?_ ?_
    · exact Nat.pos_of_ne_zero fun h => hw (BitVec.eq_of_toNat_eq h)
    · exact Nat.pos_of_ne_zero fun h => hh (BitVec.eq_of_toNat_eq h)
    · rw [hidx]; exact pixIsRaster_zero hpix
    · rw [hidx, Nat.zero_add]

/-! ## The whole-run function, check by check (R98, R100) -/

theorem runSteps_wholeRun_of_short {bs : List Byte} (hlen : bs.length < 5) (z : ZeroPolicy) :
    runSteps bs = 1 ∧ wholeRun bs z = .error .truncatedHeader := ⟨if_pos hlen, if_pos hlen⟩

section
variable {bs : List Byte} (hlen : 5 ≤ bs.length)
include hlen

theorem runSteps_wholeRun_of_unknown (hr : reqLen (byteAt bs 4) = none) (z : ZeroPolicy) :
    runSteps bs = 2 ∧ wholeRun bs z = .error .unknownMode := by
  have hlong : ¬ bs.length < 5 := Nat.not_lt.mpr hlen
  simp only [runSteps, wholeRun, hlong, hr, if_false, and_self]

theorem runSteps_wholeRun_of_cut {n : Nat} (hr : reqLen (byteAt bs 4) = some n) (hn : bs.length < 5 + n)
    (z : ZeroPolicy) :
    runSteps bs = 2 ∧ wholeRun bs z = .error .payloadTooShort := by
  have hlong : ¬ bs.length < 5 := Nat.not_lt.mpr hlen
  have hcut : bs.length - 5 < n := by omega
  simp only [runSteps, wholeRun, hlong, hr, hcut, if_false, if_true, and_self]

end

/-- On a program that is an instruction the function reads the operands that HEADER and DISPATCH load. -/
theorem runSteps_wholeRun_of_whole {n : Nat} (hr : reqLen (cmdByte s 4) = some n) (hn : 5 + n ≤ s.len) :
    runSteps (program s) = (payloadLoaded n s).width.toNat * (payloadLoaded n s).height.toNat + 1 + 1 + 1 ∧
      wholeRun (program s) s.zdim = loadedResult (payloadLoaded n s) := by
  have hb : ∀ i, i < 5 + n → byteAt (program s) i = cmdByte s i := fun i hi => byteAt_program s i (by omega)
  have hlong : ¬ (program s).length < 5 := by rw [program_length]; omega
  have hfull : ¬ (program s).length - 5 < n := by rw [program_length]; omega
  have h3 := three_le_of_reqLen hr
  have hc2 : (if n = 6 then (⟨byteAt (program s) 8, byteAt (program s) 9, byteAt (program s) 10⟩ : Colour)
      else Colour.zero) = if n = 6 then cmdColour s 8 else Colour.zero := by
    split
    · rw [hb 8 (by omega), hb 9 (by omega), hb 10 (by omega)]; rfl
    · rfl
  unfold runSteps wholeRun
  simp only [hlong, hfull, hc2, hr, hb 0 (by omega), hb 1 (by omega), hb 2 (by omega), hb 3 (by omega),
    hb 4 (by omega), hb 5 (by omega), hb 6 (by omega), hb 7 (by omega), if_false]
  exact ⟨Nat.add_comm 3 _, rfl⟩

/-- Settles O56: HEADER and DISPATCH end the run early or load the operands, and SETUP and the scan do the rest. -/
theorem runIsTheWholeRunFunction : Obligations.RunIsTheWholeRunFunction := by
  unfold Obligations.RunIsTheWholeRunFunction
  intro s hts
  change RunsTo (runSteps (program s)) (wholeRun (program s) s.zdim) (beginRun s)
  rcases Nat.lt_or_ge s.len 5 with hlen | hlen
  · obtain ⟨hsteps, hres⟩ := runSteps_wholeRun_of_short (bs := program s) (by rwa [program_length]) s.zdim
    rw [hsteps, hres]
    exact .of_step rfl (step_beginRun_of_short hts hlen) (runsTo_trapEntry _ _)
  have hlen' : 5 ≤ (program s).length := by rwa [program_length]
  have hheader := step_beginRun_of_long hts hlen
  have hmode : byteAt (program s) 4 = cmdByte s 4 := byteAt_program s 4 hlen
  cases hr : reqLen (cmdByte s 4) with
  | none =>
    obtain ⟨hsteps, hres⟩ := runSteps_wholeRun_of_unknown hlen' (by rw [hmode, hr]) s.zdim
    rw [hsteps, hres]
    exact .of_step rfl hheader (.of_step rfl (step_headerLoaded_of_unknown hts hr) (runsTo_trapEntry _ _))
  | some n =>
    rcases Nat.lt_or_ge s.len (5 + n) with hn | hn
    · obtain ⟨hsteps, hres⟩ := runSteps_wholeRun_of_cut hlen' (by rw [hmode, hr]) (by rwa [program_length]) s.zdim
      rw [hsteps, hres]
      exact .of_step rfl hheader (.of_step rfl (step_headerLoaded_of_cut hts hr hn) (runsTo_trapEntry _ _))
    · obtain ⟨hsteps, hres⟩ := runSteps_wholeRun_of_whole hr hn
      rw [hsteps, hres]
      exact .of_step rfl hheader (.of_step rfl (step_headerLoaded_of_whole hts hr hn)
        (runsTo_of_setup (s := payloadLoaded n s) hts rfl (Option.isSome_of_eq_some hr) rfl))

end Sys2Proof.Machine

/-! SUPPORT. The RENDER step of an instruction (41_dispatch_and_scan.md R96, R97), and SOLID (42_solid.md R110). -/

namespace Sys2Proof.Machine

variable {s : State}

/-- In RENDER an instruction stores the pixel of its own colour rule and advances the scan. -/
theorem exec_rendered_of_render (i : Instr) (hp : s.phase = .render) :
    ∃ t, exec i s = .next t ∧ Rendered s (instrColour i s) t :=
  ⟨renderStep (instrColour i s) s, exec_of_render i s hp, rendered_renderStep s _⟩

theorem instrColour_solid (w h : Half) (r g b : Byte) (s : State) :
    instrColour (.solid w h r g b) s = ⟨s.c1.r, s.c1.g, s.c1.b⟩ := rfl

/-- Settles O28: the RENDER step of an instruction, with the colour rule of SOLID. -/
theorem solidRendersC1 : Obligations.SolidRendersC1 := by
  unfold Obligations.SolidRendersC1
  intro w h r g b s hp
  rw [← instrColour_solid w h r g b s]
  exact exec_rendered_of_render (.solid w h r g b) hp

end Sys2Proof.Machine

/-! SUPPORT. The gradients (43_gradients.md R115 to R126): the numerator, the rounded quotient and its laws, the exact
rational form, the datapath at its widths, and the RENDER steps of VGRAD and HGRAD. -/

namespace Sys2Proof.Machine

variable {s e : Byte} {p n : Nat}

/-! ## The numerator (R116, R122, R124, R126) -/

theorem interpNum_position_zero (s e : Byte) (n : Nat) : interpNum s e 0 n = s.toNat * n := by simp [interpNum]

theorem interpNum_position_last (s e : Byte) (n : Nat) : interpNum s e n n = e.toNat * n := by unfold interpNum; ring

theorem interpNum_equal_ends (s : Byte) (p n : Nat) : interpNum s s p n = s.toNat * n := by simp [interpNum]

theorem interpNum_mirror (s e : Byte) (h : p ≤ n) : interpNum e s (n - p) n = interpNum s e p n := by
  unfold interpNum
  rw [Nat.cast_sub h]
  ring

theorem interpNum_range (s e : Byte) (h : p ≤ n) : 0 ≤ interpNum s e p n ∧ interpNum s e p n ≤ 255 * n := by
  obtain ⟨hlow, hhigh⟩ := interpNum_bounds s e p n h
  have hs := s.isLt
  have he := e.isLt
  have hmin : 0 ≤ min (s.toNat : Int) e.toNat := by omega
  have hmax : max (s.toNat : Int) e.toNat ≤ 255 := by omega
  exact ⟨(Int.mul_nonneg hmin n.cast_nonneg).trans hlow,
    hhigh.trans (Int.mul_le_mul_of_nonneg_right hmax n.cast_nonneg)⟩

/-- With rising ends the numerator rises with the position; with falling ends `interpNum_mirror` turns it around. -/
theorem interpNum_mono (hse : s.toNat ≤ e.toNat) {p' : Nat} (h : p ≤ p') : interpNum s e p n ≤ interpNum s e p' n := by
  have hd : (0 : Int) ≤ (e.toNat : Int) - s.toNat := by omega
  exact Int.add_le_add_left (Int.mul_le_mul_of_nonneg_left (by exact_mod_cast h) hd) _

/-! ## The rounded quotient (R116, R117, R124) -/

/-- The integer quotient of R116, rounded to nearest. -/
def interpQuot (s e : Byte) (p n : Nat) : Int := (2 * interpNum s e p n + n) / (2 * n)

@[simp] theorem interp_zero_denominator (s e : Byte) (p : Nat) : interp s e p 0 = s := rfl

theorem interp_of_pos (hn : 0 < n) : interp s e p n = channel (clamp255 (interpQuot s e p n)) := if_neg hn.ne'

/-- A numerator that is a channel value times the denominator gives that value back. -/
theorem interp_of_interpNum_eq_mul {c : Byte} (hn : 0 < n) (h : interpNum s e p n = c.toNat * n) :
    interp s e p n = c := by
  have hc := c.isLt
  obtain ⟨hlow, hhigh⟩ := rounded_bounds (by exact_mod_cast hn) h.ge h.le
  have hq : interpQuot s e p n = c.toNat := le_antisymm hhigh hlow
  rw [interp_of_pos hn, hq, clamp255_of_range (by omega) (by omega)]
  exact (BitVec.ofInt_natCast 8 c.toNat).trans (BitVec.ofNat_toNat 8 c)

theorem interp_equal_ends (s : Byte) (p n : Nat) : interp s s p n = s := by
  rcases Nat.eq_zero_or_pos n with rfl | hn
  · rfl
  · exact interp_of_interpNum_eq_mul hn (interpNum_equal_ends s p n)

theorem interp_mirror (hn : 0 < n) (h : p ≤ n) : interp s e p n = interp e s (n - p) n := by
  rw [interp_of_pos hn, interp_of_pos hn, interpQuot, interpQuot, interpNum_mirror s e h]

theorem interpQuot_range (s e : Byte) (hn : 0 < n) (h : p ≤ n) : 0 ≤ interpQuot s e p n ∧ interpQuot s e p n ≤ 255 := by
  obtain ⟨hlow, hhigh⟩ := interpNum_range s e h
  exact rounded_bounds (by exact_mod_cast hn) (by simpa using hlow) hhigh

theorem interp_mono (hn : 0 < n) (hse : s.toNat ≤ e.toNat) {p' : Nat} (hp : p ≤ p') (hp' : p' ≤ n) :
    (interp s e p n).toNat ≤ (interp s e p' n).toNat := by
  obtain ⟨hq, -⟩ := interp_toNat s e p n hn (hp.trans hp')
  obtain ⟨hq', -⟩ := interp_toNat s e p' n hn hp'
  have hnum := interpNum_mono (n := n) hse hp
  have hle : (2 * interpNum s e p n + n) / (2 * n) ≤ (2 * interpNum s e p' n + n) / (2 * n) :=
    Int.ediv_le_ediv (by omega) (by omega)
  rw [← hq, ← hq'] at hle
  exact_mod_cast hle

/-- Rounding to nearest by the remainder: up from half of the denominator on (R116's third form). -/
theorem rounded_quotient_remainder {q r : Nat} (hr : r < n) :
    (2 * (q * n + r) + n) / (2 * n) = if n ≤ 2 * r then q + 1 else q := by
  have hsplit : 2 * (q * n + r) + n = 2 * r + n + 2 * n * q := by ring
  rw [hsplit, Nat.add_mul_div_left _ _ (by omega)]
  split
  · rw [Nat.div_eq_of_lt_le (k := 1) (by omega) (by omega), Nat.add_comm]
  · rw [Nat.div_eq_of_lt (by omega), Nat.zero_add]

/-! ## The exact rational form (R116, R117) -/

theorem clamp255_of_nonpos {v : Int} (h : v ≤ 0) : clamp255 v = 0 := by
  unfold clamp255
  split
  · rfl
  · rw [if_neg (by omega)]
    exact le_antisymm h (by omega)

/-- Below zero, where half away from zero and half up differ, the clamp answers 0 for both. -/
theorem clamp255_roundHalfAway (v : Rat) : clamp255 (roundHalfAway v) = clamp255 ⌊v + 1 / 2⌋ := by
  unfold roundHalfAway
  split
  · rfl
  · next hv =>
    have hneg : v < 0 := not_le.mp hv
    have hdown : 0 ≤ ⌊-v + 1 / 2⌋ := Int.floor_nonneg.mpr (by linarith)
    have hup : ⌊v + 1 / 2⌋ < 1 := Int.floor_lt.mpr (by push_cast; linarith)
    rw [clamp255_of_nonpos (by omega), clamp255_of_nonpos (by omega)]

/-- The exact value plus one half is the quotient of R116 before its floor. -/
theorem exact_value_add_half (s e : Byte) (p : Nat) (hn : 0 < n) :
    (s.toNat : Rat) + ((e.toNat : Rat) - s.toNat) * p / n + 1 / 2 =
      ((2 * interpNum s e p n + n : Int) : Rat) / ((2 * n : Nat) : Rat) := by
  have hn' : (n : Rat) ≠ 0 := by exact_mod_cast hn.ne'
  unfold interpNum
  push_cast
  field_simp

theorem interp_eq_interpExact (s e : Byte) (p n : Nat) : interp s e p n = interpExact s e p n := by
  rcases Nat.eq_zero_or_pos n with rfl | hn
  · rfl
  · rw [interp_of_pos hn, interpExact, if_neg hn.ne', clamp255_roundHalfAway, exact_value_add_half s e p hn,
      Rat.floor_intCast_div_natCast, interpQuot, Nat.cast_mul, Nat.cast_ofNat]

/-! ## The statements about the interpolation -/

/-- Settles O41: the exact form by the clamp of negative values, the quotient and remainder form by Euclidean division. -/
theorem interpIsExactAndRoundsHalfAway : Obligations.InterpIsExactAndRoundsHalfAway := by
  unfold Obligations.InterpIsExactAndRoundsHalfAway
  refine ⟨interp_eq_interpExact, interp_zero_denominator, fun s e p n hn h => (interp_toNat s e p n hn h).left, ?_⟩
  intro s e p n q r hn h hnum hr
  obtain ⟨hq, -⟩ := interp_toNat s e p n hn h
  rw [hnum] at hq
  rw [← rounded_quotient_remainder hr]
  exact_mod_cast hq

/-- Settles O42: at the ends the numerator is the end value times the denominator. -/
theorem interpZeroDenominatorAndEndpoints : Obligations.InterpZeroDenominatorAndEndpoints := by
  unfold Obligations.InterpZeroDenominatorAndEndpoints
  exact ⟨interp_zero_denominator, fun c1 c2 p => ⟨rfl, rfl⟩, fun s e n hn =>
    ⟨interp_of_interpNum_eq_mul hn (interpNum_position_zero s e n),
      interp_of_interpNum_eq_mul hn (interpNum_position_last s e n)⟩⟩

/-- Settles O43: rising ends by the numerator, falling ends by the mirror image. -/
theorem interpIsMonotone : Obligations.InterpIsMonotone := by
  unfold Obligations.InterpIsMonotone
  intro s e p p' n hn hp hp'
  refine ⟨fun hse => interp_mono hn hse hp hp', fun hes => ?_⟩
  rw [interp_mirror hn hp', interp_mirror hn (hp.trans hp')]
  exact interp_mono hn hes (Nat.sub_le_sub_left hp n) (Nat.sub_le n p)

/-- Settles O44: the quotient's bounds for a positive denominator, the start value for a zero one. -/
theorem interpStaysBetweenItsEnds : Obligations.InterpStaysBetweenItsEnds := by
  unfold Obligations.InterpStaysBetweenItsEnds
  intro s e p n h
  obtain ⟨hlow, hhigh⟩ := interpNum_bounds s e p n h
  obtain ⟨hnonneg, hmax⟩ := interpNum_range s e h
  have hends : min s.toNat e.toNat ≤ (interp s e p n).toNat ∧ (interp s e p n).toNat ≤ max s.toNat e.toNat := by
    rcases Nat.eq_zero_or_pos n with rfl | hn
    · exact ⟨min_le_left _ _, le_max_left _ _⟩
    · obtain ⟨hq, hqlow, hqhigh⟩ := interp_toNat s e p n hn h
      rw [← hq] at hqlow hqhigh
      exact ⟨by exact_mod_cast hqlow, by exact_mod_cast hqhigh⟩
  refine ⟨hends.left, hends.right, hlow, hhigh, hnonneg, hmax, fun hn => ?_⟩
  obtain ⟨h0, h255⟩ := interpQuot_range s e hn h
  exact clamp255_of_range h0 h255

theorem interpColour_mirror (c1 c2 : Colour) (hn : 0 < n) (h : p ≤ n) :
    interpColour c1 c2 p n = interpColour c2 c1 (n - p) n := by
  rw [interpColour, interpColour, interp_mirror hn h, interp_mirror hn h, interp_mirror hn h]

/-- Settles O45: equal ends and swapped ends, seen at the numerator. -/
theorem interpConstantAndMirror : Obligations.InterpConstantAndMirror := by
  unfold Obligations.InterpConstantAndMirror
  refine ⟨interp_equal_ends, fun s e p n hn h => interp_mirror hn h, fun c1 c2 m p hm hp => ?_⟩
  have hmirror := interpColour_mirror c1 c2 (n := m - 1) (p := p) (by omega) (by omega)
  exact ⟨hmirror, hmirror⟩

/-! ## The datapath at its widths (R121) -/

theorem setWidth_ofInt_of_le {v w : Nat} (h : v ≤ w) (i : Int) : (BitVec.ofInt w i).setWidth v = BitVec.ofInt v i := by
  rw [← BitVec.signExtend_eq_setWidth_of_le _ h]
  apply BitVec.eq_of_toInt_eq
  rw [BitVec.toInt_signExtend, BitVec.toInt_ofInt, BitVec.toInt_ofInt, min_eq_left h]
  exact Int.bmod_bmod_of_dvd (pow_dvd_pow 2 h)

theorem setWidth_eq_ofInt_toNat {v : Nat} (w : Nat) (x : BitVec v) : x.setWidth w = BitVec.ofInt w x.toNat := by
  rw [BitVec.ofInt_natCast, BitVec.ofNat_toNat]

/-- The difference of two channels in 9 bits two's complement. -/
theorem difference_toInt (s e : Byte) : (e.setWidth 9 - s.setWidth 9).toInt = (e.toNat : Int) - s.toNat := by
  have hs := s.isLt
  have he := e.isLt
  rw [BitVec.toInt_sub, BitVec.toInt_setWidth, BitVec.toInt_setWidth, ← Int.sub_bmod]
  exact Int.bmod_eq_of_le_mul_two (by omega) (by omega)

/-- The numerator of the datapath, in 24 bits, the product with the difference formed in 25. -/
def interpNumBits (s e : Byte) (p n : Half) : BitVec 24 :=
  s.setWidth 24 * n.setWidth 24 + ((e.setWidth 9 - s.setWidth 9).signExtend 25 * p.setWidth 25).setWidth 24

theorem interpDatapath_eq (s e : Byte) (p n : Half) :
    interpDatapath s e p n = ((2#25 * (interpNumBits s e p n).setWidth 25 + n.setWidth 25) /
      (2#17 * n.setWidth 17).setWidth 25).setWidth 8 := rfl

/-- Modulo its width the numerator is right for all operands. -/
theorem interpNumBits_eq_ofInt (s e : Byte) (p n : Half) :
    interpNumBits s e p n = BitVec.ofInt 24 (interpNum s e p.toNat n.toNat) := by
  rw [interpNumBits, BitVec.signExtend, difference_toInt, setWidth_eq_ofInt_toNat 25 p, ← BitVec.ofInt_mul,
    setWidth_ofInt_of_le (by decide), setWidth_eq_ofInt_toNat 24 s, setWidth_eq_ofInt_toNat 24 n, ← BitVec.ofInt_mul,
    ← BitVec.ofInt_add, interpNum]

theorem interpNumBits_toNat (s e : Byte) {p n : Half} (h : p.toNat ≤ n.toNat) :
    ((interpNumBits s e p n).toNat : Int) = interpNum s e p.toNat n.toNat := by
  obtain ⟨h0, h255⟩ := interpNum_range s e h
  have hn := n.isLt
  rw [interpNumBits_eq_ofInt, BitVec.toNat_ofInt]
  omega

theorem interpDatapath_eq_interp (s e : Byte) {p n : Half} (hn : 0 < n.toNat) (h : p.toNat ≤ n.toNat) :
    interpDatapath s e p n = interp s e p.toNat n.toNat := by
  have hnum := interpNumBits_toNat s e h
  obtain ⟨h0, h255⟩ := interpNum_range s e h
  obtain ⟨hq, -⟩ := interp_toNat s e p.toNat n.toNat hn h
  have hlt := n.isLt
  have hdividend : (2#25 * (interpNumBits s e p n).setWidth 25 + n.setWidth 25).toNat =
      2 * (interpNumBits s e p n).toNat + n.toNat := by
    simp only [BitVec.toNat_add, BitVec.toNat_mul, BitVec.toNat_setWidth, BitVec.toNat_ofNat]
    omega
  have hdivisor : ((2#17 * n.setWidth 17).setWidth 25).toNat = 2 * n.toNat := by
    simp only [BitVec.toNat_mul, BitVec.toNat_setWidth, BitVec.toNat_ofNat]
    omega
  have hquot : (interp s e p.toNat n.toNat).toNat = (2 * (interpNumBits s e p n).toNat + n.toNat) / (2 * n.toNat) := by
    rw [← hnum] at hq
    exact_mod_cast hq
  apply BitVec.eq_of_toNat_eq
  rw [interpDatapath_eq, BitVec.toNat_setWidth, BitVec.toNat_udiv, hdividend, hdivisor, ← hquot]
  exact Nat.mod_eq_of_lt (interp s e p.toNat n.toNat).isLt

theorem difference_range (s e : Byte) : -255 ≤ (e.toNat : Int) - s.toNat ∧ (e.toNat : Int) - s.toNat ≤ 255 := by
  have hs := s.isLt
  have he := e.isLt
  omega

theorem difference_mul_range (s e : Byte) (hp : p ≤ 65534) :
    -16711170 ≤ ((e.toNat : Int) - s.toNat) * p ∧ ((e.toNat : Int) - s.toNat) * p ≤ 16711170 := by
  have hd : |(e.toNat : Int) - s.toNat| ≤ 255 := abs_le.mpr (difference_range s e)
  have hp' : |(p : Int)| ≤ 65534 := by rw [Nat.abs_cast]; exact_mod_cast hp
  rw [← abs_le, abs_mul]
  exact mul_le_mul hd hp' (abs_nonneg _) (by decide)

/-- Settles O46: each quantity's range, and the numerator in 24 bits, from which the division is that of R116. -/
theorem interpDatapathWidths : Obligations.InterpDatapathWidths := by
  unfold Obligations.InterpDatapathWidths
  intro s e p n hn hmax h
  obtain ⟨hd, hd'⟩ := difference_range s e
  obtain ⟨hdp, hdp'⟩ := difference_mul_range s e (h.trans hmax)
  obtain ⟨hnum, hnum'⟩ := interpNum_range s e h
  obtain ⟨hquot, hquot'⟩ := interpQuot_range s e hn h
  have hsn : s.toNat * n ≤ 16711170 := Nat.mul_le_mul (Nat.le_of_lt_succ s.isLt) hmax
  have hp : (BitVec.ofNat 16 p).toNat = p := Nat.mod_eq_of_lt (by omega)
  have hn' : (BitVec.ofNat 16 n).toNat = n := Nat.mod_eq_of_lt (by omega)
  have hdatapath := interpDatapath_eq_interp s e (p := BitVec.ofNat 16 p) (n := BitVec.ofNat 16 n)
    (by rwa [hn']) (by rwa [hp, hn'])
  rw [hp, hn'] at hdatapath
  exact ⟨hd, hd', hsn, hdp, hdp', hnum, hnum', by omega, by omega, by omega, by omega, by omega, hquot, hquot',
    hdatapath⟩

/-! ## The RENDER steps of the gradients (R119, R120) -/

theorem interpColour_eq_interpExact (c1 c2 : Colour) (p n : Nat) :
    interpColour c1 c2 p n = ⟨interpExact c1.r c2.r p n, interpExact c1.g c2.g p n, interpExact c1.b c2.b p n⟩ := by
  rw [interpColour, interp_eq_interpExact, interp_eq_interpExact, interp_eq_interpExact]

theorem instrColour_vgrad (w h : Half) (r1 g1 b1 r2 g2 b2 : Byte) (s : State) :
    instrColour (.vgrad w h r1 g1 b1 r2 g2 b2) s = interpColour s.c1 s.c2 s.y.toNat (s.height.toNat - 1) := rfl

theorem instrColour_hgrad (w h : Half) (r1 g1 b1 r2 g2 b2 : Byte) (s : State) :
    instrColour (.hgrad w h r1 g1 b1 r2 g2 b2) s = interpColour s.c1 s.c2 s.x.toNat (s.width.toNat - 1) := rfl

/-- Settles O29: the RENDER step of an instruction, with the colour rule of VGRAD in its exact form. -/
theorem vgradRendersTheRowColour : Obligations.VgradRendersTheRowColour := by
  unfold Obligations.VgradRendersTheRowColour
  intro w h r1 g1 b1 r2 g2 b2 s hp
  rw [← interpColour_eq_interpExact, ← instrColour_vgrad w h r1 g1 b1 r2 g2 b2 s]
  exact exec_rendered_of_render (.vgrad w h r1 g1 b1 r2 g2 b2) hp

/-- Settles O30: the RENDER step of an instruction, with the colour rule of HGRAD in its exact form. -/
theorem hgradRendersTheColumnColour : Obligations.HgradRendersTheColumnColour := by
  unfold Obligations.HgradRendersTheColumnColour
  intro w h r1 g1 b1 r2 g2 b2 s hp
  rw [← interpColour_eq_interpExact, ← instrColour_hgrad w h r1 g1 b1 r2 g2 b2 s]
  exact exec_rendered_of_render (.hgrad w h r1 g1 b1 r2 g2 b2) hp

end Sys2Proof.Machine

/-! SUPPORT. CHECKER (44_checkerboard.md R135 to R137): the parity of the tile numbers as a comparison of bits, and the
RENDER step. -/

namespace Sys2Proof.Machine

/-- Bit 3 of a coordinate is the parity of its tile number (R137). -/
theorem getLsbD_three_eq_tile_odd (x : Half) : x.getLsbD 3 = decide (x.toNat / tileSize % 2 = 1) :=
  Nat.testBit_eq_decide_div_mod_eq

/-- The parity of a sum is even exactly where the two parities agree (R137). -/
theorem tile_sum_even_iff (x y : Half) :
    (x.toNat / tileSize + y.toNat / tileSize) % 2 = 0 ↔ x.getLsbD 3 = y.getLsbD 3 := by
  rw [getLsbD_three_eq_tile_odd, getLsbD_three_eq_tile_odd, decide_eq_decide]
  omega

/-- The colour rule in the bit-level form of R137. -/
theorem checkerColour_eq_of_bitThree (c1 c2 : Colour) (x y : Half) :
    checkerColour c1 c2 x.toNat y.toNat = if x.getLsbD 3 = y.getLsbD 3 then c1 else c2 :=
  if_congr (tile_sum_even_iff x y) rfl rfl

theorem instrColour_checker (w h : Half) (r1 g1 b1 r2 g2 b2 : Byte) (s : State) :
    instrColour (.checker w h r1 g1 b1 r2 g2 b2) s = checkerColour s.c1 s.c2 s.x.toNat s.y.toNat := rfl

/-- Settles O31: the RENDER step of an instruction, with the colour rule of CHECKER in its bit-level form. -/
theorem checkerRendersByBitThree : Obligations.CheckerRendersByBitThree := by
  unfold Obligations.CheckerRendersByBitThree
  intro w h r1 g1 b1 r2 g2 b2 s hp
  rw [← checkerColour_eq_of_bitThree, ← instrColour_checker w h r1 g1 b1 r2 g2 b2 s]
  exact exec_rendered_of_render (.checker w h r1 g1 b1 r2 g2 b2) hp

end Sys2Proof.Machine

/-! SUPPORT. The encoder (45_encoder.md R145 to R150): when `encode_header` and `encode_payload` fail and what they emit,
that an assembled instruction is its canonical encoding, and that the engine loads its operands from it. -/

namespace Sys2Proof

/-! ## `encode_header` (R145, R146) -/

theorem dimInRange_iff {v : Int} : dimInRange v = true ↔ 0 ≤ v ∧ v ≤ 65535 := by
  simp only [dimInRange, Bool.and_eq_true, decide_eq_true_eq]

theorem byteInRange_iff {v : Int} : byteInRange v = true ↔ 0 ≤ v ∧ v ≤ 255 := by
  simp only [byteInRange, Bool.and_eq_true, decide_eq_true_eq]

theorem encodeHeader_of_out_of_range {w h m : Int}
    (hout : ¬ (dimInRange w = true ∧ dimInRange h = true ∧ byteInRange m = true)) :
    encodeHeader w h m = .error .range :=
  if_neg (by simpa only [Bool.and_eq_true, and_assoc] using hout)

/-- The two bytes of a field are its quotient and remainder by 256. -/
theorem extract_toNat_eq_div_mod (w : Half) : ((w.extractLsb' 8 8).toNat : Int) = w.toNat / 256 ∧
    ((w.extractLsb' 0 8).toNat : Int) = w.toNat % 256 := by
  have hpair := bigEndian_toNat (w.extractLsb' 8 8) (w.extractLsb' 0 8)
  rw [bigEndian_extract] at hpair
  omega

/-- Settles O16: numbers in range are the fields of a header, whose bytes are known; the others fail the check. -/
theorem encodeHeaderEmitsOrFails : Obligations.EncodeHeaderEmitsOrFails := by
  unfold Obligations.EncodeHeaderEmitsOrFails
  intro w h m
  refine ⟨fun hout => ?fails, fun hw0 hw hh0 hh hm0 hm => ?emits⟩
  case fails =>
    apply encodeHeader_of_out_of_range
    rw [dimInRange_iff, dimInRange_iff, byteInRange_iff]
    omega
  case emits =>
    obtain ⟨w, rfl⟩ := exists_bitVec_of_range (n := 16) hw0 (by omega)
    obtain ⟨h, rfl⟩ := exists_bitVec_of_range (n := 16) hh0 (by omega)
    obtain ⟨m, rfl⟩ := exists_bitVec_of_range (n := 8) hm0 (by omega)
    obtain ⟨hw1, hw2⟩ := extract_toNat_eq_div_mod w
    obtain ⟨hh1, hh2⟩ := extract_toNat_eq_div_mod h
    exact ⟨_, _, _, _, _, encodeHeader_toNat w h m, hw1, hw2, hh1, hh2, rfl⟩

/-! ## `encode_payload` (R147, R148) -/

theorem paramCount_of_unknown {m : Int} (hm : ¬ (m = 1 ∨ m = 2 ∨ m = 3 ∨ m = 4)) : paramCount m = none := by
  obtain ⟨h1, hpair⟩ := not_or.mp hm
  rw [paramCount, if_neg h1, if_neg hpair]

theorem paramCount_of_valid {m : Int} {n : Nat} (hm : (m = 1 ∧ n = 3) ∨ ((m = 2 ∨ m = 3 ∨ m = 4) ∧ n = 6)) :
    paramCount m = some n := by
  rcases hm with ⟨rfl, rfl⟩ | ⟨rfl | rfl | rfl, rfl⟩ <;> rfl

/-- With the mode's number of parameters only the range check is left. -/
theorem encodePayload_of_paramCount {m : Int} {ps : List Int} (hn : paramCount m = some ps.length) :
    encodePayload m ps = packBytes ps := by
  simp only [encodePayload, hn, if_true]

theorem packBytes_of_out_of_range {ps : List Int} (hout : ∃ v ∈ ps, v < 0 ∨ 255 < v) :
    packBytes ps = .error .range := by
  obtain ⟨v, hv, hrange⟩ := hout
  refine if_neg fun hall => ?_
  have := byteInRange_iff.mp (List.all_eq_true.mp hall v hv)
  omega

/-- Bytes given as their values are packed back. -/
theorem packBytes_toNat (bs : List Byte) : packBytes (bs.map fun b => (b.toNat : Int)) = .ok bs := by
  have hall : (bs.map fun b => (b.toNat : Int)).all byteInRange = true := by
    simp only [List.all_map, List.all_eq_true, Function.comp_apply, byteInRange_toNat, implies_true]
  have hmap : (bs.map fun b => (b.toNat : Int)).map (BitVec.ofInt 8) = bs := by
    simp [Function.comp_def]
  rw [packBytes, if_pos hall, hmap]

/-- Numbers in the range of a byte are the values of bytes. -/
theorem exists_bytes_of_range {ps : List Int} (hps : ∀ v ∈ ps, 0 ≤ v ∧ v ≤ 255) :
    ∃ bs : List Byte, bs.map (fun b => (b.toNat : Int)) = ps := by
  have hmem : ps ∈ {l : List Int | ∀ v ∈ l, v ∈ Set.range fun b : Byte => (b.toNat : Int)} := by
    intro v hv
    obtain ⟨h0, h255⟩ := hps v hv
    exact exists_bitVec_of_range h0 (by omega)
  rwa [← Set.range_list_map] at hmem

/-- Settles O17: the mode decides the number of parameters, and then only their range check can fail. -/
theorem encodePayloadEmitsOrFails : Obligations.EncodePayloadEmitsOrFails := by
  unfold Obligations.EncodePayloadEmitsOrFails
  intro m ps
  refine ⟨fun hm => ?unknown, fun hm => ?valid⟩
  case unknown => simp only [encodePayload, paramCount_of_unknown hm]
  case valid =>
    rw [encodePayload_of_paramCount (paramCount_of_valid hm)]
    refine ⟨packBytes_of_out_of_range, fun hps => ?_⟩
    obtain ⟨bs, rfl⟩ := exists_bytes_of_range hps
    exact ⟨bs, packBytes_toNat bs, rfl⟩

/-! ## The assembled instruction (R67, R71, R149) -/

/-- The source of an instruction is assembled from its fields as numbers. -/
theorem assembleStmt_source (i : Instr) :
    assembleStmt i.source = encodeFile i.widthField.toNat i.heightField.toNat i.modeByte.toNat
      (i.payloadBytes.map fun b => (b.toNat : Int)) := by
  cases i <;> rfl

/-- The payload has the number of parameters that the mode has fields. -/
theorem paramCount_modeByte (i : Instr) :
    paramCount i.modeByte.toNat = some (i.payloadBytes.map fun b => (b.toNat : Int)).length := by
  cases i <;> rfl

theorem assembleStmt_source_eq_encode (i : Instr) : assembleStmt i.source = .ok (encode i) := by
  rw [assembleStmt_source, encodeFile_eq_appendBytes, encodeHeader_toNat,
    encodePayload_of_paramCount (paramCount_modeByte i), packBytes_toNat]
  rfl

theorem instrLen_modeByte (i : Instr) : instrLen i.modeByte = some (encode i).length := by
  cases i with
  | solid w h r g b => exact Laws.EncodedLength.solid w h r g b
  | vgrad w h r1 g1 b1 r2 g2 b2 => exact Laws.EncodedLength.vgrad w h r1 g1 b1 r2 g2 b2
  | hgrad w h r1 g1 b1 r2 g2 b2 => exact Laws.EncodedLength.hgrad w h r1 g1 b1 r2 g2 b2
  | checker w h r1 g1 b1 r2 g2 b2 => exact Laws.EncodedLength.checker w h r1 g1 b1 r2 g2 b2

/-- Settles O20: the statement assembles to the encoding, and the trailing bytes are packed back behind it. -/
theorem assembledInstructionIsCanonical : Obligations.AssembledInstructionIsCanonical := by
  unfold Obligations.AssembledInstructionIsCanonical
  intro i tr
  refine ⟨?_, (instrLen_modeByte i).symm, rfl⟩
  rw [assemble_eq_appendBytes, assembleStmt_source_eq_encode, packBytes_toNat]
  rfl

end Sys2Proof

namespace Sys2Proof.Machine

variable {s : State} {i : Instr} {rest : List Byte}

/-! ## The engine on an encoded instruction (R92, R150) -/

theorem payloadBytes_length_le (i : Instr) : i.payloadBytes.length ≤ 6 := by
  cases i <;> simp [Instr.payloadBytes]

/-- HEADER loads the fields of the instruction. -/
theorem step_of_encoded_header (hts : s.turns = []) (hp : s.phase = .header) (hprog : program s = encode i ++ rest) :
    step s = .next (loadHeader i.widthField i.heightField i.modeByte s) := by
  rw [encode, List.append_assoc] at hprog
  rw [step_of_header hts hp, headerStep_of_program_eq hprog]

/-- The engine sees the payload of the instruction and of the trailing bytes those at offsets below 11. -/
theorem payload_of_encoded (hprog : program s = encode i ++ rest) : ∃ tr, payload s = i.payloadBytes ++ tr := by
  have hdrop : (program s).drop 5 = i.payloadBytes ++ rest := by rw [hprog, encode, List.append_assoc]; rfl
  refine ⟨rest.take (6 - i.payloadBytes.length), ?_⟩
  rw [payload_eq_drop_command, command_eq_take, List.drop_take, hdrop, List.take_append,
    List.take_of_length_le (payloadBytes_length_le i)]

/-- DISPATCH under the header of the instruction makes its payload load. -/
theorem step_of_encoded_dispatch (hts : s.turns = []) (hp : s.phase = .dispatch)
    (hprog : program s = encode i ++ rest) (hw : s.width = i.widthField) (hh : s.height = i.heightField)
    (hm : s.mode = i.modeByte) : step s = .next (instrLoad i s) := by
  obtain ⟨tr, hpl⟩ := payload_of_encoded hprog
  have hi : inFlight s = some i := by
    rw [inFlight_of_dispatch hp, hw, hh, hm, hpl, decodeBody_payloadBytes_append]; rfl
  rw [step_of_inFlight hts hi, exec_of_dispatch hp]

/-- The payload load puts the payload bytes in `C1` and, unless the mode is 1, in `C2`. -/
theorem instrLoad_colours (i : Instr) (s : State) :
    [(instrLoad i s).c1.r, (instrLoad i s).c1.g, (instrLoad i s).c1.b] = i.payloadBytes.take 3 ∧
    (i.modeByte = 1#8 → (instrLoad i s).c2 = s.c2) ∧
    (i.modeByte ≠ 1#8 →
      [(instrLoad i s).c2.r, (instrLoad i s).c2.g, (instrLoad i s).c2.b] = i.payloadBytes.drop 3) := by
  cases i with
  | solid => exact ⟨rfl, fun _ => rfl, fun hm => absurd rfl hm⟩
  | vgrad | hgrad | checker => exact ⟨rfl, fun hm => by simp [Instr.modeByte] at hm, fun _ => rfl⟩

/-- The state two steps after START: the payload load of the instruction, on its header in the cleared engine. -/
theorem runFor_two_of_encoded (hts : s.turns = []) (hprog : program s = encode i ++ rest) :
    runFor 2 (beginRun s) =
      .next (instrLoad i (loadHeader i.widthField i.heightField i.modeByte (beginRun s))) := by
  have hheader := step_of_encoded_header (s := beginRun s) hts rfl hprog
  have hdispatch := step_of_encoded_dispatch (s := loadHeader i.widthField i.heightField i.modeByte (beginRun s))
    hts rfl hprog rfl rfl rfl
  rw [runFor_succ_of_next 1 hheader, runFor_succ_of_next 0 hdispatch, runFor_zero]

/-- Settles O60: HEADER and DISPATCH load the operands into the engine that START cleared. -/
theorem encodedFileLoadsItsOperands : Obligations.EncodedFileLoadsItsOperands := by
  unfold Obligations.EncodedFileLoadsItsOperands
  intro s i rest hts hprog
  refine ⟨_, runFor_two_of_encoded hts hprog, ?_⟩
  obtain ⟨hw, hh, hm, -, -, hp, herr, -⟩ :=
    instrLoad_frame i (loadHeader i.widthField i.heightField i.modeByte (beginRun s))
  rw [hw, hh, hm]
  exact ⟨hp, herr, rfl, rfl, rfl, instrLoad_colours i _⟩

end Sys2Proof.Machine

/-! SUPPORT. The traps (60_exceptions.md R160 to R171): which engine steps raise one and with which code, what a good state
holds after it, how the host leaves `ERROR`, and the priority of the errors of a whole run. -/

namespace Sys2Proof.Machine

variable {s : State}

/-! ## Trap entry (R160 to R167) -/

/-- R162, R163: DISPATCH enters `ERROR` by one of its two traps only. -/
theorem dispatchStep_of_error (hp : (dispatchStep s).phase = .error) :
    dispatchStep s = trapEntry .unknownMode s ∨ dispatchStep s = trapEntry .payloadTooShort s := by
  cases hr : reqLen s.mode with
  | none => exact .inl (dispatchStep_of_unknown hr)
  | some n =>
    rcases Nat.lt_or_ge s.len (5 + n) with hn | hn
    · exact .inr (dispatchStep_of_cut hr hn)
    · rw [dispatchStep_of_whole hr hn] at hp; cases hp

/-- The inversion of an engine move into `ERROR`: the trap each phase raises; RENDER raises none. -/
theorem engineMove_enters_error {t : State} (ht : engineMove s = .next t) (hs : s.phase ≠ .error)
    (hp : t.phase = .error) :
    (s.phase = .header ∧ t = trapEntry .truncatedHeader s) ∨
    (s.phase = .dispatch ∧ (t = trapEntry .unknownMode s ∨ t = trapEntry .payloadTooShort s)) ∨
    (s.phase = .setup ∧ t = trapEntry .emptyDimension s) := by
  rcases engineMove_cases ht with ⟨h, rfl⟩ | ⟨h, rfl⟩ | ⟨h, rfl⟩ | ⟨h, c, -, rfl⟩ | ⟨-, rfl⟩
  · rcases headerStep_cases s with ⟨-, e⟩ | ⟨-, e⟩
    · exact .inl ⟨h, e⟩
    · rw [e] at hp; cases hp
  · exact .inr (.inl ⟨h, dispatchStep_of_error hp⟩)
  · rcases setupStep_cases s with ⟨-, -, e⟩ | ⟨-, -, e⟩ | ⟨-, -, e⟩
    · exact .inr (.inr ⟨h, e⟩)
    all_goals rw [e] at hp; cases hp
  · rcases renderStep_phase c s with e | e <;> rw [e] at hp
    · exact absurd hp hs
    · cases hp
  · exact absurd hp hs

/-- Settles O36: every engine move into `ERROR` is a trap entry, of the kind its phase raises. -/
theorem trapEntryChangesOnlyErrAndPhase : Obligations.TrapEntryChangesOnlyErrAndPhase := by
  unfold Obligations.TrapEntryChangesOnlyErrAndPhase
  intro s t hts ht hs hp
  rw [step_of_no_turns s hts] at ht
  rcases engineMove_enters_error ht hs hp with ⟨h, rfl⟩ | ⟨h, rfl | rfl⟩ | ⟨h, rfl⟩
  · exact ⟨rfl, by simp, .inl h⟩
  · exact ⟨rfl, by simp, .inr (.inl h)⟩
  · exact ⟨rfl, by simp, .inr (.inl h)⟩
  · exact ⟨rfl, by simp, .inr (.inr h)⟩

/-! ## No partial output (R168) -/

theorem inv_error_pix (hi : Inv s) (hp : s.phase = .error) : s.pix = [] := by
  obtain ⟨-, -, -, -, hphase⟩ := hi
  simp only [PhaseInv, hp] at hphase
  obtain ⟨-, -, hpix⟩ := hphase
  exact hpix

/-- Settles O37: the step keeps the invariant, by which `PIX` is empty in `ERROR`. -/
theorem trapLeavesNoPixels : Obligations.TrapLeavesNoPixels := by
  unfold Obligations.TrapLeavesNoPixels
  intro s t hi ht hp i
  rw [inv_error_pix (everyStepKeepsTheInvariant s t hi ht) hp, Memory.read]

/-! ## The ways out of `ERROR` (R170, R190) -/

@[simp] theorem writeCfg_phase (v : Nat) (s : State) : (writeCfg v s).phase = s.phase := by
  unfold writeCfg; split <;> rfl

@[simp] theorem writeLen_phase (v : Nat) (s : State) : (writeLen v s).phase = s.phase := by
  unfold writeLen; split <;> rfl

@[simp] theorem writeCmd_phase (i : Nat) (b : Byte) (s : State) : (writeCmd i b s).phase = s.phase := by
  unfold writeCmd; split <;> rfl

/-- The inversion of a host action that leaves `ERROR`: RESET, START with the RESET bit clear, or hardware reset. -/
theorem hostAct_leaves_error {a : HostAction} (hs : s.phase = .error) (hp : (hostAct a s).phase ≠ .error) :
    (∃ v, a = .writeReg 0 v ∧ ((v / 2 % 2 = 1 ∧ hostAct a s = resetCmd s) ∨
      (v / 2 % 2 = 0 ∧ v % 2 = 1 ∧ hostAct a s = beginRun s))) ∨
    (a = .hardwareReset ∧ hostAct a s = hardwareReset s) := by
  have hmoves : (hostAct a s).phase ≠ s.phase := by rwa [hs]
  rcases hostAct_cases a s with ⟨v, ha, ⟨h1, e⟩ | ⟨h1, h0, e⟩ | ⟨-, -, e⟩⟩ | ⟨v, -, e⟩ | ⟨v, -, e⟩ | ⟨n, v, -, -, e⟩ |
    ⟨i, b, -, e⟩ | ⟨r, -, e⟩ | ⟨ha, e⟩
  · rw [testBit_one_iff, decide_eq_true_eq] at h1
    exact .inl ⟨v, ha, .inl ⟨h1, e⟩⟩
  · rw [testBit_one_iff, decide_eq_false_iff_not] at h1
    rw [testBit_zero_iff, decide_eq_true_eq] at h0
    have hb : busyFlag s = false := by rw [busyFlag, hs]
    exact .inl ⟨v, ha, .inr ⟨by omega, h0, e.trans (startCmd_of_not_busy hb)⟩⟩
  · exact absurd (by rw [e]) hmoves
  · exact absurd (by rw [e, writeCfg_phase]) hmoves
  · exact absurd (by rw [e, writeLen_phase]) hmoves
  · exact absurd (by rw [e]) hmoves
  · exact absurd (by rw [e, writeCmd_phase]) hmoves
  · exact absurd (by rw [e, setReply_phase]) hmoves
  · exact .inr ⟨ha, e⟩

/-- Settles O38: in `ERROR` the engine's own move changes nothing, so the step is one of the host's ways out. -/
theorem onlyStartOrResetLeavesError : Obligations.OnlyStartOrResetLeavesError := by
  unfold Obligations.OnlyStartOrResetLeavesError
  intro s t hs ht hp
  have hhalt : halted s = true := (halted_eq_true s).mpr (.inr (.inr hs))
  rcases step_cases s with ⟨-, e⟩ | ⟨ts, -, e⟩ | ⟨a, ts, hts, e⟩ <;> rw [e] at ht
  · rw [engineMove_of_halted hhalt] at ht
    cases ht; exact absurd hs hp
  · rw [engineMove_of_halted (s := setTurns ts s) hhalt] at ht
    cases ht; exact absurd hs hp
  · cases ht
    rcases hostAct_leaves_error (s := setTurns ts s) hs hp with
      ⟨v, rfl, ⟨h1, e'⟩ | ⟨h1, h0, e'⟩⟩ | ⟨rfl, e'⟩ <;> rw [e']
    · exact .inl ⟨v, ts, hts, .inl ⟨h1, rfl⟩, rfl⟩
    · exact .inl ⟨v, ts, hts, .inr ⟨h1, h0, rfl⟩, rfl⟩
    · exact .inr ⟨ts, hts, rfl⟩

/-! ## Error priority (R166) -/

section
variable {bs : List Byte} {n : Nat} (hr : reqLen (byteAt bs 4) = some n) (hn : 5 + n ≤ bs.length)
  (hd : bigEndian (byteAt bs 0) (byteAt bs 1) = 0#16 ∨ bigEndian (byteAt bs 2) (byteAt bs 3) = 0#16)
include hr hn hd

theorem wholeRun_of_reject : wholeRun bs .reject = .error .emptyDimension := by
  have hlong : ¬ bs.length < 5 := by omega
  have hfull : ¬ bs.length - 5 < n := by omega
  simp only [wholeRun, hlong, hr, hfull, hd, if_false, if_true]

theorem wholeRun_of_emitEmpty :
    wholeRun bs .emitEmpty = .ok ⟨(bigEndian (byteAt bs 0) (byteAt bs 1)).toNat,
      (bigEndian (byteAt bs 2) (byteAt bs 3)).toNat, []⟩ := by
  have hlong : ¬ bs.length < 5 := by omega
  have hfull : ¬ bs.length - 5 < n := by omega
  simp only [wholeRun, hlong, hr, hfull, hd, if_false, if_true]

end

/-- Settles O39: each check of the whole-run function is reached only when the ones before it pass. -/
theorem errorPriorityOfAWholeRun : Obligations.ErrorPriorityOfAWholeRun := by
  unfold Obligations.ErrorPriorityOfAWholeRun
  refine fun bs z => ⟨fun hlen => (runSteps_wholeRun_of_short hlen z).right,
    fun hlen hr => (runSteps_wholeRun_of_unknown hlen hr z).right,
    fun n hlen hr hn => (runSteps_wholeRun_of_cut hlen hr hn z).right, fun n hr hn hzero => ?_⟩
  have hd : bigEndian (byteAt bs 0) (byteAt bs 1) = 0#16 ∨ bigEndian (byteAt bs 2) (byteAt bs 3) = 0#16 := by
    rcases hzero with ⟨e0, e1⟩ | ⟨e2, e3⟩
    · exact .inl (by rw [e0, e1]; rfl)
    · exact .inr (by rw [e2, e3]; rfl)
  refine ⟨?_, ?_⟩ <;> rintro rfl
  · exact wholeRun_of_reject hr hn hd
  · exact ⟨_, _, wholeRun_of_emitEmpty hr hn hd, hd.imp (congrArg BitVec.toNat) (congrArg BitVec.toNat)⟩

end Sys2Proof.Machine

/-! SUPPORT. The host (70_reset_and_hazards.md R190 to R199): what each of its moves does to a halted and to a busy
engine, the sequence of one run from hardware reset, and the pixel beat. -/

namespace Sys2Proof.Machine

variable {s : State}

/-! ## Writes to a halted engine (R19, R23, R199) -/

section
variable (hh : halted s = true)
include hh

theorem writeLen_of_halted (v : Nat) : writeLen v s = { s with len := v } := if_pos hh

theorem writeCmd_of_halted (i : Nat) (b : Byte) : writeCmd i b s = { s with cmd := Memory.write s.cmd i b } := if_pos hh

/-- R19: of the value written to `CFG` bit 0 is stored. -/
theorem writeCfg_of_halted (v : Nat) :
    writeCfg v s = { s with zdim := if v % 2 = 1 then .reject else .emitEmpty } := by
  simp only [writeCfg, hh, if_true, testBit_zero_iff, decide_eq_true_eq]

theorem writeCfg_cfgValue (z : ZeroPolicy) : writeCfg (cfgValue z) s = { s with zdim := z } := by
  rw [writeCfg_of_halted hh]
  cases z <;> rfl

end

/-- Settles O5: on a halted engine each of the three writes is stored. -/
theorem haltedHostWritesAreStored : Obligations.HaltedHostWritesAreStored := by
  unfold Obligations.HaltedHostWritesAreStored
  intro s ts hh
  have hh' : halted (setTurns ts s) = true := by rwa [halted_setTurns]
  refine ⟨fun v hts => ?len, fun v hts => ?cfg, fun i b hts => ?cmd⟩ <;> rw [step_of_host s hts, hostAct]
  case len => rw [writeReg, writeLen_of_halted hh']
  case cfg => rw [writeReg, writeCfg_of_halted hh']
  case cmd =>
    rw [writeCmd_of_halted hh']
    exact ⟨_, rfl, Memory.read_write_self s.cmd i b, fun j hj => Memory.read_write_of_ne s.cmd b hj,
      sameEngine_withEngineOf { setTurns ts s with cmd := Memory.write s.cmd i b } s, rfl, rfl, rfl⟩

/-! ## Several host moves -/

section
variable (ts : List Turn) (s : State)

theorem startCmd_setTurns : startCmd (setTurns ts s) = setTurns ts (startCmd s) := by
  unfold startCmd
  rw [halted_setTurns]
  split <;> rfl

theorem writeCfg_setTurns (v : Nat) : writeCfg v (setTurns ts s) = setTurns ts (writeCfg v s) := by
  unfold writeCfg
  rw [halted_setTurns]
  split <;> rfl

theorem writeLen_setTurns (v : Nat) : writeLen v (setTurns ts s) = setTurns ts (writeLen v s) := by
  unfold writeLen
  rw [halted_setTurns]
  split <;> rfl

theorem writeCmd_setTurns (i : Nat) (b : Byte) : writeCmd i b (setTurns ts s) = setTurns ts (writeCmd i b s) := by
  unfold writeCmd
  rw [halted_setTurns]
  split <;> rfl

theorem writeCtrl_setTurns (v : Nat) : writeCtrl v (setTurns ts s) = setTurns ts (writeCtrl v s) := by
  unfold writeCtrl
  rw [startCmd_setTurns]
  split_ifs <;> rfl

/-- The turns to come do not reach the host's moves either. -/
theorem hostAct_setTurns (a : HostAction) : hostAct a (setTurns ts s) = setTurns ts (hostAct a s) := by
  cases a with
  | writeReg n v =>
    match n with
    | 0 => exact writeCtrl_setTurns ts s v
    | 1 => exact writeCfg_setTurns ts s v
    | 2 => exact writeLen_setTurns ts s v
    | n + 3 => rfl
  | writeCmd i b => exact writeCmd_setTurns ts s i b
  | readReg | readCmd | readPix | hardwareReset => rfl

end

/-- The host's actions one after the other. -/
def hostActs (as : List HostAction) (s : State) : State := as.foldl (fun t a => hostAct a t) s

/-- A run over host turns makes their actions, one step each. -/
theorem runFor_hostTurns (as : List HostAction) (s : State) :
    runFor as.length (setTurns (as.map .host) s) = .next (setTurns [] (hostActs as s)) := by
  induction as generalizing s with
  | nil => rfl
  | cons a as ih =>
    have hstep : step (setTurns ((a :: as).map .host) s) = .next (setTurns (as.map .host) (hostAct a s)) := by
      rw [step_of_host (setTurns ((a :: as).map .host) s) rfl, setTurns_setTurns, hostAct_setTurns]
    exact (runFor_succ_of_next as.length hstep).trans (ih (hostAct a s))

/-! ## The sequence of one run (R192) -/

/-- The host's writes of `bs` to `CMD` from offset `a` on. -/
def fileWrites (bs : List Byte) (a : Nat) : List HostAction := bs.mapIdx fun i b => .writeCmd (a + i) b

theorem fileWrites_cons (b : Byte) (bs : List Byte) (a : Nat) :
    fileWrites (b :: bs) a = .writeCmd a b :: fileWrites bs (a + 1) := by
  simp only [fileWrites, List.mapIdx_cons, Nat.add_zero, Nat.add_assoc, Nat.add_comm 1]

theorem hostActs_fileWrites (bs : List Byte) (a : Nat) (hh : halted s = true) :
    hostActs (fileWrites bs a) s = { s with cmd := storeCmd bs a s.cmd } := by
  induction bs generalizing s a with
  | nil => rfl
  | cons b bs ih =>
    have hwrite : hostActs (fileWrites (b :: bs) a) s = hostActs (fileWrites bs (a + 1)) (writeCmd a b s) := by
      rw [fileWrites_cons]; rfl
    rw [hwrite, writeCmd_of_halted hh]
    exact ih (a + 1) hh

/-- The actions of `bootScript`. -/
def bootActions (bs : List Byte) (z : ZeroPolicy) : List HostAction :=
  fileWrites bs 0 ++ [.writeReg 2 bs.length, .writeReg 1 (cfgValue z), .writeReg 0 1]

theorem bootScript_eq (bs : List Byte) (z : ZeroPolicy) : bootScript bs z = (bootActions bs z).map .host := by
  simp [bootScript, bootActions, fileWrites, List.mapIdx_eq_zipIdx_map]

/-- The host side of a run on the file `bs` under the policy `z`. -/
def withFile (bs : List Byte) (z : ZeroPolicy) (s : State) : State :=
  { s with cmd := storeCmd bs 0 s.cmd, len := bs.length, zdim := z }

theorem program_withFile (bs : List Byte) (z : ZeroPolicy) (s : State) : program (withFile bs z s) = bs :=
  program_loadAndBegin bs s

/-- On a halted engine the sequence places the file, sets the policy and begins the run. -/
theorem hostActs_bootActions (bs : List Byte) (z : ZeroPolicy) (hh : halted s = true) :
    hostActs (bootActions bs z) s = beginRun (withFile bs z s) := by
  have hlen := writeLen_of_halted (s := { s with cmd := storeCmd bs 0 s.cmd }) hh bs.length
  have hcfg := writeCfg_cfgValue (s := { s with cmd := storeCmd bs 0 s.cmd, len := bs.length }) hh z
  have hstart : writeCtrl 1 (withFile bs z s) = beginRun (withFile bs z s) := if_pos hh
  calc hostActs (bootActions bs z) s
      = hostActs [.writeReg 2 bs.length, .writeReg 1 (cfgValue z), .writeReg 0 1]
          (hostActs (fileWrites bs 0) s) := List.foldl_append
    _ = writeCtrl 1 (writeCfg (cfgValue z) (writeLen bs.length { s with cmd := storeCmd bs 0 s.cmd })) := by
      rw [hostActs_fileWrites bs 0 hh]; rfl
    _ = beginRun (withFile bs z s) := by rw [hlen, hcfg]; exact hstart

/-- Settles O57: the sequence begins the run on the file it placed, and from there the run is that of O56. -/
theorem bootSequenceGivesTheResult : Obligations.BootSequenceGivesTheResult := by
  unfold Obligations.BootSequenceGivesTheResult
  intro bs z
  obtain ⟨-, t, ht, hres⟩ := runIsTheWholeRunFunction (withFile bs z State.reset) rfl
  rw [program_withFile] at ht hres
  have hboot : runFor (bootScript bs z).length (setTurns (bootScript bs z) State.reset) =
      .next (beginRun (withFile bs z State.reset)) := by
    rw [bootScript_eq, List.length_map, runFor_hostTurns, hostActs_bootActions bs z rfl]; rfl
  exact ⟨t, (runFor_add _ hboot).trans ht, hres⟩

/-! ## The pixel beat (R96, R196) -/

theorem beat_eq_some_iff {b : Beat} :
    beat s = some b ↔
      s.phase = .render ∧ ∃ c, colourAt s s.x.toNat s.y.toNat = some c ∧ ⟨pixIndex s, s.x, s.y, c⟩ = b := by
  unfold beat
  cases s.phase <;> simp

/-- Settles O40: a beat is that of the pixel which the RENDER step stores. -/
theorem everyBeatIsRecorded : Obligations.EveryBeatIsRecorded := by
  unfold Obligations.EveryBeatIsRecorded
  intro s b hts hb
  obtain ⟨hp, c, hc, rfl⟩ := beat_eq_some_iff.mp hb
  exact ⟨rfl, rfl, rfl, hc, renderStep c s, step_of_render hts hp hc, rendered_renderStep s c⟩

/-! ## RESET and hardware reset (R190, R191) -/

/-- R22: RESET wins over START. -/
theorem writeCtrl_of_reset {v : Nat} (h1 : v / 2 % 2 = 1) : writeCtrl v s = resetCmd s := by
  have hreset : v.testBit 1 = true := by rw [testBit_one_iff, h1]; rfl
  exact if_pos hreset

/-- R22: "writing 0 does nothing". -/
theorem writeCtrl_of_no_strobe {v : Nat} (h0 : v % 2 = 0) (h1 : v / 2 % 2 = 0) : writeCtrl v s = s := by
  have hstart : v.testBit 0 = false := by rw [testBit_zero_iff, h0]; rfl
  have hreset : v.testBit 1 = false := by rw [testBit_one_iff, h1]; rfl
  simp only [writeCtrl, hstart, hreset, Bool.false_eq_true, if_false]

theorem cleared_resetCmd (s : State) : Cleared (resetCmd s) := ⟨rfl, rfl, rfl, rfl, rfl, rfl, rfl, rfl⟩

/-- Settles O48: the write is RESET, which clears the engine in every phase, or it is no strobe. -/
theorem resetCommandReturnsToIdle : Obligations.ResetCommandReturnsToIdle := by
  unfold Obligations.ResetCommandReturnsToIdle
  intro s ts v hts
  rw [step_of_host s hts, hostAct, writeReg]
  refine ⟨fun h1 => ?_, fun h1 h0 => ?_⟩
  · rw [writeCtrl_of_reset h1]
    exact ⟨_, rfl, cleared_resetCmd _, rfl, rfl, rfl, rfl, rfl, rfl⟩
  · rw [writeCtrl_of_no_strobe h0 h1]

theorem sameEngine_hardwareReset (s : State) : SameEngine (hardwareReset s) State.reset :=
  ⟨rfl, rfl, rfl, rfl, rfl, rfl, rfl, rfl, rfl, rfl⟩

/-- Settles O2: the turn is hardware reset, which leaves nothing of the state before it but the turns to come. -/
theorem hardwareResetFromEveryState : Obligations.HardwareResetFromEveryState := by
  unfold Obligations.HardwareResetFromEveryState
  intro s ts hts
  exact ⟨_, step_of_host s hts, sameEngine_hardwareReset _, rfl, rfl, Memory.read_nil, rfl⟩

/-! ## Host moves on a busy engine (R193) -/

section
variable (hb : busyFlag s = true)
include hb

theorem not_halted_of_busy : ¬ halted s = true := by simp [halted, hb]

theorem writeCfg_of_busy (v : Nat) : writeCfg v s = s := if_neg (not_halted_of_busy hb)

theorem writeLen_of_busy (v : Nat) : writeLen v s = s := if_neg (not_halted_of_busy hb)

theorem writeCmd_of_busy (i : Nat) (b : Byte) : writeCmd i b s = s := if_neg (not_halted_of_busy hb)

/-- While the engine is busy only RESET and hardware reset do more than answer the host. -/
theorem hostAct_of_busy {a : HostAction} (ha : a ≠ .hardwareReset) (hreset : ∀ v, v / 2 % 2 = 1 → a ≠ .writeReg 0 v) :
    hostAct a s = s ∨ ∃ r, hostAct a s = setReply r s := by
  rcases hostAct_cases a s with ⟨v, e, ⟨h1, -⟩ | ⟨-, -, e'⟩ | ⟨-, -, e'⟩⟩ | ⟨v, -, e'⟩ | ⟨v, -, e'⟩ |
    ⟨n, v, -, -, e'⟩ | ⟨i, b, -, e'⟩ | ⟨r, -, e'⟩ | ⟨e, -⟩
  · rw [testBit_one_iff, decide_eq_true_eq] at h1
    exact absurd e (hreset v h1)
  · exact .inl (e'.trans (startCmd_of_busy hb))
  · exact .inl e'
  · exact .inl (e'.trans (writeCfg_of_busy hb v))
  · exact .inl (e'.trans (writeLen_of_busy hb v))
  · exact .inl e'
  · exact .inl (e'.trans (writeCmd_of_busy hb i b))
  · exact .inr ⟨r, e'⟩
  · exact absurd e ha

theorem writeReg_of_busy {n : Nat} (hn : 1 ≤ n) (v : Nat) : writeReg n v s = s := by
  match n with
  | 1 => exact writeCfg_of_busy hb v
  | 2 => exact writeLen_of_busy hb v
  | n + 3 => rfl

end

/-- Settles O49: each of the writes leaves the busy engine's state as it is. -/
theorem busyHostWritesAreIgnored : Obligations.BusyHostWritesAreIgnored := by
  unfold Obligations.BusyHostWritesAreIgnored
  intro s ts hb
  have hb' : busyFlag (setTurns ts s) = true := by rwa [busyFlag_setTurns]
  refine ⟨fun n v hn hts => ?_, fun i b hts => ?_⟩ <;> rw [step_of_host s hts, hostAct]
  · rw [writeReg_of_busy hb' hn]
  · rw [writeCmd_of_busy hb']

/-! ## What the host leaves alone (R24, R172) -/

theorem sameEngine_refl (s : State) : SameEngine s s := sameEngine_withEngineOf s s

theorem sameEngine_writeCfg (v : Nat) (s : State) : SameEngine s (writeCfg v s) := by
  unfold writeCfg; split <;> exact sameEngine_refl s

theorem sameEngine_writeLen (v : Nat) (s : State) : SameEngine s (writeLen v s) := by
  unfold writeLen; split <;> exact sameEngine_refl s

theorem sameEngine_writeCmd (i : Nat) (b : Byte) (s : State) : SameEngine s (writeCmd i b s) := by
  unfold writeCmd; split <;> exact sameEngine_refl s

/-- The engine's fields are reached through `CTRL` and the hardware reset line only. -/
theorem sameEngine_hostAct {a : HostAction} (s : State) (ha : a ≠ .hardwareReset) (hctrl : ∀ v, a ≠ .writeReg 0 v) :
    SameEngine s (hostAct a s) := by
  rcases hostAct_cases a s with ⟨v, e, -⟩ | ⟨v, -, e⟩ | ⟨v, -, e⟩ | ⟨n, v, -, -, e⟩ | ⟨i, b, -, e⟩ | ⟨r, -, e⟩ | ⟨e, -⟩
  · exact absurd e (hctrl v)
  · rw [e]; exact sameEngine_writeCfg v s
  · rw [e]; exact sameEngine_writeLen v s
  · rw [e]; exact sameEngine_refl s
  · rw [e]; exact sameEngine_writeCmd i b s
  · rw [e]; exact sameEngine_refl s
  · exact absurd e ha

/-- Settles O51: the host's moves without `CTRL`, and its moves on a busy engine without RESET. -/
theorem hostReachesTheEngineOnlyByStrobes : Obligations.HostReachesTheEngineOnlyByStrobes := by
  unfold Obligations.HostReachesTheEngineOnlyByStrobes
  intro s a ts hts ha
  refine ⟨fun hctrl => ⟨_, step_of_host s hts, sameEngine_hostAct (setTurns ts s) ha hctrl⟩,
    fun hb hreset => ⟨_, step_of_host s hts, ?_⟩⟩
  rcases hostAct_of_busy (s := setTurns ts s) hb ha hreset with e | ⟨r, e⟩ <;> rw [e] <;>
    exact ⟨sameEngine_refl s, rfl, rfl, rfl⟩

/-! ## Host reads of the spaces (R47, R195, R199) -/

theorem pixReadValue_of_done {i : Nat} {c : Colour} (hp : s.phase = .done) (hi : i < s.width.toNat * s.height.toNat)
    (hc : Memory.read s.pix i = some c) : pixReadValue s i = c := by
  rw [pixReadValue, if_pos ⟨hp, hi⟩, hc, Option.getD_some]

theorem cmdReadValue_of_lt {i : Nat} {b : Byte} (hi : i < s.len) (hb : Memory.read s.cmd i = some b) :
    cmdReadValue s i = b := by
  rw [cmdReadValue, if_pos hi, cmdByte, hb, Option.getD_some]

/-- Settles O50: the reply is the value read, which inside the ranges is the one the space holds. -/
theorem hostReadsOfTheSpaces : Obligations.HostReadsOfTheSpaces := by
  unfold Obligations.HostReadsOfTheSpaces
  intro s ts i
  exact ⟨fun hts => ⟨pixReadValue s i, step_of_host s hts, fun c hp hi hc => pixReadValue_of_done hp hi hc⟩,
    fun hts => ⟨cmdReadValue s i, step_of_host s hts, fun b hi hb => cmdReadValue_of_lt hi hb⟩⟩

end Sys2Proof.Machine
